-- ==== Sys2Proof/Word.lean ====
section
/-! DEFINITION. Word: the widths of the engine's words and fields (spec/00_scope.md R4, spec/10_state.md R13).
Only names for bit patterns stand here; every operation on them is in Machine/Ops.lean or Machine/Operands.lean. -/

namespace Sys2Proof

/-- A 32-bit word: a command, a register of the host window, a step of the datapath (R4 `XLEN`, `CMDW`). -/
abbrev Word := BitVec 32

/-- One sensor byte, as a command carries it (R48 B2, B1, B0). -/
abbrev Byte := BitVec 8

/-- A 16-bit calibration pattern (R4 `CALW`). -/
abbrev Half := BitVec 16

/-- A 20-bit raw ADC code (R4 `RAWW`). -/
abbrev Raw := BitVec 20

/-- The twelve calibration entries of a file, entry 0 first (R4 `NCAL`; R14, R16). -/
abbrev CalFile := Vector Half 12

/-- A byte offset in the host window (R4 `HOST_ADDR_W` = 8; R34). -/
abbrev Offset := BitVec 8

end Sys2Proof
end

