-- ==== Sys2Proof/Config.lean ====
section
/-! DEFINITION. Config: the parameters of spec/00_scope.md R4. The fixed ones are numbers; the OPEN ones have no body,
so nothing can be proved of their values. The bit widths of R4 (XLEN, CALW, RAWW, CMDW, HOST_ADDR_W, ERRW) are the
widths of the types of Word.lean and of the register ERRCODE. -/

namespace Sys2Proof

/-- `NCAL`: how many calibration entries there are (R4). -/
abbrev Config.nCal : Nat := 12

/-- `POUT_SCALE`: the factor from PCOMP to POUT (R4, R25; 90_conflicts.md C4). -/
abbrev Config.poutScale : Int := 1000

/-- `SENSOR_ADDR7`, OPEN: the sensor's 7-bit two-wire address. The engine never uses it (R4; log entry 8). -/
opaque Config.sensorAddr7 : BitVec 7

/-- `CHIP_ID`, OPEN: the byte in sensor register 0xD0. The engine never uses it (R4, R41; log entry 8). -/
opaque Config.chipId : Byte

/-- `CTRL_MEAS`, OPEN: the byte the host writes to sensor register 0xF4. The engine never uses it (R4; log entry 8). -/
opaque Config.ctrlMeas : Byte

/-- `LATENCY`, OPEN and unmodelled: the time from a command write to its completion. No rule depends on it
(R4, R95; log entry 8). -/
opaque Config.latency : Nat

end Sys2Proof
end

