-- ==== Sys2Proof/Syntax.lean ====
section
/-! DEFINITION. Syntax: the eight commands (spec/30_encoding.md R51) and the causes a command is rejected for
(spec/60_exceptions.md R73). -/

namespace Sys2Proof

/-- The commands of the engine, one constructor per row of the opcode table (R51). Operands stand in the order of
the assembler syntax (R55). -/
inductive Instr where
  /-- NOP (R70). -/
  | nop
  /-- WRCAL k, lo, hi (R58): `k` is the index IDX, `lo` is B0 and `hi` is B1. A decoded `k` is in 0..15 (R50). -/
  | wrcal (k : Nat) (lo hi : Byte)
  /-- COMMIT (R59). -/
  | commit
  /-- LDRAWT msb, lsb, xlsb (R60): B2, B1 and the whole of B0, its ignored low nibble included (log entry 9). -/
  | ldrawt (msb lsb xlsb : Byte)
  /-- LDRAWP msb, lsb, xlsb (R61). -/
  | ldrawp (msb lsb xlsb : Byte)
  /-- COMPT (R64). -/
  | compt
  /-- COMPP (R65). -/
  | compp
  /-- CLRERR (R71). -/
  | clrerr
  deriving DecidableEq, Repr

/-- Why a command is rejected: the named rows 1 to 8 of R73's table. The 4-bit codes are `Rejection.code`
(Machine/Ops.lean). -/
inductive Rejection where
  | illegalOpcode
  | rsvdField
  | badIndex
  | calLocked
  | calIncomplete
  | noCal
  | noRaw
  | noFine
  deriving DecidableEq, Repr

end Sys2Proof
end

