-- ==== Sys2Proof/WellFormed.lean ====
section
/-! DEFINITION. WellFormed: which terms of Instr are commands a word can carry. The operand bytes are 8 bits by their
type; the one check left is WRCAL's index, which the 4-bit field IDX holds (spec/30_encoding.md R48, R50, R55: "An
assembler refuses k > 15"). Indices 12 to 15 are well formed: they are assemblable, and the engine rejects them. -/

namespace Sys2Proof

/-- The index of a WRCAL fits the field IDX; nothing is asked of the other commands. -/
def Instr.wellFormed : Instr → Bool
  | .wrcal k _ _ => decide (k ≤ 15)
  | .nop => true
  | .commit => true
  | .ldrawt _ _ _ => true
  | .ldrawp _ _ _ => true
  | .compt => true
  | .compp => true
  | .clrerr => true

/-- `i` is a command some word carries. -/
abbrev WellFormed (i : Instr) : Prop := i.wellFormed = true

end Sys2Proof
end

