-- ==== Sys2Proof/Decode.lean ====
section
/-! DEFINITION. Decode: from a 32-bit command word to a command or a named rejection (spec/30_encoding.md R48 to R53),
the encoder written from the same tables, and the opcode map of R51 as data. Every word is one command (R54), so the
decoder reads exactly one word; the host window moves whole words and has no byte order (R39). -/

namespace Sys2Proof

/-- What decoding answers: a command, or the cause the word is rejected for. -/
inductive Decoded where
  | command (i : Instr)
  | rejected (e : Rejection)
  deriving DecidableEq, Repr

/-- `OP = w[31:28]` (R48). -/
def fieldOp (w : Word) : BitVec 4 := w.extractLsb' 28 4

/-- `IDX = w[27:24]` (R48). -/
def fieldIdx (w : Word) : BitVec 4 := w.extractLsb' 24 4

/-- `B2 = w[23:16]` (R48). -/
def fieldB2 (w : Word) : Byte := w.extractLsb' 16 8

/-- `B1 = w[15:8]` (R48). -/
def fieldB1 (w : Word) : Byte := w.extractLsb' 8 8

/-- `B0 = w[7:0]` (R48). -/
def fieldB0 (w : Word) : Byte := w.extractLsb' 0 8

/-- `w[27:0]`, which must be zero for the commands without operands (R49, R52). -/
def fieldBody (w : Word) : BitVec 28 := w.extractLsb' 0 28

/-- A command without operands: its word's other 28 bits must be zero (R49, R52). -/
def decodePlain (w : Word) (i : Instr) : Decoded :=
  if fieldBody w ≠ 0 then .rejected .rsvdField else .command i

/-- Decoding, in the order of R52: the opcode first, then the must-be-zero fields of that opcode, then the operands
of R50. -/
def decode (w : Word) : Decoded :=
  match (fieldOp w).toNat with
  | 0x0 => decodePlain w .nop
  | 0x1 =>
    if fieldB2 w ≠ 0 then .rejected .rsvdField
    else .command (.wrcal (fieldIdx w).toNat (fieldB0 w) (fieldB1 w))
  | 0x2 => decodePlain w .commit
  | 0x3 =>
    if fieldIdx w ≠ 0 then .rejected .rsvdField
    else .command (.ldrawt (fieldB2 w) (fieldB1 w) (fieldB0 w))
  | 0x4 =>
    if fieldIdx w ≠ 0 then .rejected .rsvdField
    else .command (.ldrawp (fieldB2 w) (fieldB1 w) (fieldB0 w))
  | 0x5 => decodePlain w .compt
  | 0x6 => decodePlain w .compp
  | 0x7 => decodePlain w .clrerr
  | _ => .rejected .illegalOpcode

/-- A word from its five fields, OP in the upper bits (R48). -/
def packWord (op idx : BitVec 4) (b2 b1 b0 : Byte) : Word := op ++ idx ++ b2 ++ b1 ++ b0

/-- The word of a command, by the field-use table of R49. An index over 15, which no well-formed command has, would
lose its upper bits. -/
def encode : Instr → Word
  | .nop => packWord 0x0 0 0 0 0
  | .wrcal k lo hi => packWord 0x1 (BitVec.ofNat 4 k) 0 hi lo
  | .commit => packWord 0x2 0 0 0 0
  | .ldrawt msb lsb xlsb => packWord 0x3 0 msb lsb xlsb
  | .ldrawp msb lsb xlsb => packWord 0x4 0 msb lsb xlsb
  | .compt => packWord 0x5 0 0 0 0
  | .compp => packWord 0x6 0 0 0 0
  | .clrerr => packWord 0x7 0 0 0 0

/-- One row of R51's opcode map: a word belongs to the row when its bits under `mask` are `pattern`. -/
structure OpcodeRow where
  mnemonic : String
  pattern : Word
  mask : Word
  deriving DecidableEq, Repr

/-- The opcode map of R51, with all must-be-zero bits inside the mask. -/
def opcodeMap : List OpcodeRow :=
  [ ⟨"NOP",    0x00000000#32, 0xFFFFFFFF#32⟩,
    ⟨"WRCAL",  0x10000000#32, 0xF0FF0000#32⟩,
    ⟨"COMMIT", 0x20000000#32, 0xFFFFFFFF#32⟩,
    ⟨"LDRAWT", 0x30000000#32, 0xFF000000#32⟩,
    ⟨"LDRAWP", 0x40000000#32, 0xFF000000#32⟩,
    ⟨"COMPT",  0x50000000#32, 0xFFFFFFFF#32⟩,
    ⟨"COMPP",  0x60000000#32, 0xFFFFFFFF#32⟩,
    ⟨"CLRERR", 0x70000000#32, 0xFFFFFFFF#32⟩ ]

/-- The word `w` belongs to the row (R51). -/
def OpcodeRow.matchesWord (r : OpcodeRow) (w : Word) : Bool := decide (w &&& r.mask = r.pattern)

/-- The command's name in the opcode map (R51, R55). -/
def Instr.mnemonic : Instr → String
  | .nop => "NOP"
  | .wrcal _ _ _ => "WRCAL"
  | .commit => "COMMIT"
  | .ldrawt _ _ _ => "LDRAWT"
  | .ldrawp _ _ _ => "LDRAWP"
  | .compt => "COMPT"
  | .compp => "COMPP"
  | .clrerr => "CLRERR"

/-- The command word whose low `nbits` bits are those of `w`, every bit above them 0. Bit i of a word has weight 2^i
(R5, R39), which is also how the opcode table numbers bits (log entry 10). -/
def tableWord (nbits w : Nat) : Word := BitVec.ofNat 32 (w % 2 ^ nbits)

/-- The command the decoder reads from a word given as the opcode table numbers its bits; none where the decoder
rejects the word, or where the bits do not fit the one command length of 32 (R48, R54). -/
def decodeTableWord (nbits w : Nat) : Option Instr :=
  if 2 ^ 32 ≤ w % 2 ^ nbits then none
  else
    match decode (tableWord nbits w) with
    | .command i => some i
    | .rejected _ => none

end Sys2Proof
end

