-- ==== Sys2Proof/Machine/State.lean ====
section
/-! DEFINITION. Machine/State: the engine's registers (spec/10_state.md R13 to R29), the host's transactions and the
engine's answers to them (spec/20_memory.md R34 to R39, spec/60_exceptions.md R85), the state after reset
(spec/10_state.md R33), and the two reason types of a step, which R86 leaves almost empty. -/

namespace Sys2Proof.Machine

/-- The faults of the engine: none. R86: "The engine has no stuck state. So a model's step for a CMD write is total
and always yields the next state." What a processor would trap, the engine rejects in a next state (R72). Nothing
raises a value of this type, so an empty type is safe. -/
inductive Fault where
  deriving DecidableEq, Repr

/-- The refusals of the model. -/
inductive Refusal where
  /-- Raised by an arm of `exec` whose instruction has no meaning yet; safe, since a run stops there. No arm raises
  it in this model. -/
  | notModelled (mnemonic : String)
  deriving DecidableEq, Repr

/-- The response of the host window to one access (R36 to R38). -/
inductive BusResp where
  | OK
  | ERR
  deriving DecidableEq, Repr

/-- What the engine answers to one host transaction. -/
inductive Reply where
  /-- The answer to a write (R37), or to an access that is not a whole word (R39): a response without data. -/
  | plain (r : BusResp)
  /-- The answer to a word read (R36): the response and the word. -/
  | data (r : BusResp) (value : Word)
  deriving DecidableEq, Repr

/-- One thing the host does to the engine (R85). `width` is the access's width in bytes: 4 is the one width the
window serves (R39). -/
inductive HostTxn where
  /-- `HostRead(off)` (R36). -/
  | read (width : Nat) (off : Offset)
  /-- `HostWrite(off, w)` (R37). -/
  | write (width : Nat) (off : Offset) (w : Word)
  /-- The reset event (R87), which falls between transactions (R88). -/
  | reset
  deriving DecidableEq, Repr

/-- The registers of the host window (R35). -/
inductive WindowReg where
  | cmd
  | status
  | fine
  | temp
  | pcomp
  | pout
  | rawT
  | rawP
  | cal (k : Fin 12)
  deriving DecidableEq, Repr

/-- The state: the engine's whole architectural state (R13: the registers of R14 to R29; STATUS is a view of it, R30),
and beside it the model's own host side, `pending` and `reply` (log entry 1). -/
structure State where
  /-- STAGE[0..11], the hidden staging file (R14). -/
  stage : CalFile
  /-- SMASK: bit k says STAGE[k] has been written since reset (R15). -/
  smask : BitVec 12
  /-- CAL[0..11], the active calibration file (R16). -/
  cal : CalFile
  /-- CALV: a set is active and locked (R18). -/
  calv : Bool
  /-- RAW_T (R19). -/
  rawT : Raw
  /-- RAW_P (R19). -/
  rawP : Raw
  /-- RAWTV (R20). -/
  rawtv : Bool
  /-- RAWPV (R20). -/
  rawpv : Bool
  /-- FINE, read as signed (R21). -/
  fine : Word
  /-- FINEV (R22). -/
  finev : Bool
  /-- TEMP, read as signed (R23). -/
  temp : Word
  /-- PCOMP, read as unsigned (R24). -/
  pcomp : Word
  /-- POUT, read as unsigned (R25). -/
  pout : Word
  /-- PINV: the last COMPP returned the sentinel (R26). -/
  pinv : Bool
  /-- PRESV: a COMPP has completed since reset (R27). -/
  presv : Bool
  /-- OVFT: a signed step of the last COMPT left the signed range (R28). -/
  ovft : Bool
  /-- OVFP: a signed step of the last COMPP left the signed range (R28). -/
  ovfp : Bool
  /-- ERRCODE (R29, R73). -/
  errcode : BitVec 4
  /-- The model's own: the host's transactions not yet served, in the order the host issues them (R44; log entry 1). -/
  pending : List HostTxn
  /-- The model's own: the answer to the transaction served last, none after reset (log entry 1). -/
  reply : Option Reply
  deriving DecidableEq, Repr

/-- A calibration file of zeros (R33). -/
def zeroCal : CalFile := Vector.replicate 12 0#16

/-- The state after reset: every register of R33 at the value R33 gives; no transaction waiting and none answered
(log entry 1). -/
def State.reset : State where
  stage := zeroCal
  smask := 0
  cal := zeroCal
  calv := false
  rawT := 0
  rawP := 0
  rawtv := false
  rawpv := false
  fine := 0
  finev := false
  temp := 0
  pcomp := 0
  pout := 0
  pinv := false
  presv := false
  ovft := false
  ovfp := false
  errcode := 0
  pending := []
  reply := none

end Sys2Proof.Machine
end

