-- ==== Sys2Proof/Machine/Ops.lean ====
section
/-! DEFINITION. Machine/Ops: the integer primitives of spec/00_scope.md R6 to R9, the one operation that rejects a
command (spec/60_exceptions.md R72), and the named updates of the registers that the commands are made of. The engine
owns no memory beyond these registers (spec/20_memory.md R34). -/

namespace Sys2Proof.Machine

/-! The primitives compute on mathematical integers and narrow only here (R6). -/

/-- `u32(v) = v mod 2^32` (R6). -/
def u32 (v : Int) : Int := v % 2 ^ 32

/-- `s32(v) = ((v + 2^31) mod 2^32) - 2^31` (R6). -/
def s32 (v : Int) : Int := (v + 2 ^ 31) % 2 ^ 32 - 2 ^ 31

/-- `asr(a, k) = floor(a / 2^k)`, toward minus infinity (R7). -/
def asr (a : Int) (k : Nat) : Int := a / 2 ^ k

/-- `lsr(u, k) = floor(u / 2^k)`, for an unsigned `u` (R7). -/
def lsr (u : Int) (k : Nat) : Int := u / 2 ^ k

/-- `shl(a, k) = a * 2^k`, the exact integer (R7). -/
def shl (a : Int) (k : Nat) : Int := a * 2 ^ k

/-- `udiv(a, b) = floor(a / b)`, for unsigned operands and `b` at least 1 (R9). -/
def udiv (a b : Int) : Int := a / b

/-- `asS(x)`: the pattern of a 32-bit register read as signed (R6). -/
def asS (x : Word) : Int := x.toInt

/-- `asU(x)`: the pattern of a 32-bit register read as unsigned (R6). -/
def asU (x : Word) : Int := x.toNat

/-- The pattern an integer leaves in a 32-bit register: `s32(v)` and `u32(v)` have the same one (R6). -/
def toReg (v : Int) : Word := BitVec.ofInt 32 v

/-! Rejection, the engine's whole "trap entry" (R72, R79). There is no return from it (R80); CLRERR's clearing of the
code stands beside it. -/

/-- The 4-bit code of a cause (R73). -/
def Rejection.code : Rejection → BitVec 4
  | .illegalOpcode => 1
  | .rsvdField => 2
  | .badIndex => 3
  | .calLocked => 4
  | .calIncomplete => 5
  | .noCal => 6
  | .noRaw => 7
  | .noFine => 8

/-- `reject(E)`: ERRCODE <- code(E), and no other change (R10, R72, R74). -/
def reject (e : Rejection) (s : State) : State := { s with errcode := Rejection.code e }

/-- ERRCODE <- 0 (R71). -/
def clearError (s : State) : State := { s with errcode := 0 }

/-! The updates of the calibration, raw and result registers. -/

/-- STAGE[k] <- v; SMASK[k] <- 1 (R58), for `k` below 12. -/
def stageEntry (k : Nat) (v : Half) (s : State) : State :=
  { s with stage := s.stage.setIfInBounds k v, smask := s.smask ||| (1#12 <<< k) }

/-- CAL <- STAGE, all twelve entries at once; CALV <- 1 (R59). -/
def activateStage (s : State) : State := { s with cal := s.stage, calv := true }

/-- RAW_T <- code; RAWTV <- 1 (R60). -/
def loadRawT (code : Raw) (s : State) : State := { s with rawT := code, rawtv := true }

/-- RAW_P <- code; RAWPV <- 1 (R61). -/
def loadRawP (code : Raw) (s : State) : State := { s with rawP := code, rawpv := true }

/-- FINE <- f; TEMP <- t; OVFT <- o; FINEV <- 1 (R64). -/
def storeTemp (f t : Int) (o : Bool) (s : State) : State :=
  { s with fine := toReg f, temp := toReg t, ovft := o, finev := true }

/-- PCOMP <- pc; POUT <- po; PINV <- inv; OVFP <- o; PRESV <- 1 (R65). -/
def storePress (pc po : Int) (inv o : Bool) (s : State) : State :=
  { s with pcomp := toReg pc, pout := toReg po, pinv := inv, ovfp := o, presv := true }

/-! The host side of the state (log entry 1). -/

/-- The answer to the transaction being served. -/
def respond (r : Reply) (s : State) : State := { s with reply := some r }

/-- The transactions that still wait. -/
def withPending (ts : List HostTxn) (s : State) : State := { s with pending := ts }

/-- `respond`, after whatever a command's execution answers; a stop stays the stop it is. -/
def answer (r : Reply) : Host.Outcome State Fault Refusal → Host.Outcome State Fault Refusal
  | .next s => .next (respond r s)
  | .fault f => .fault f
  | .refused f => .refused f

/-- What follows an execution: `k` from its next state, or the stop it is. -/
def andThen (o : Host.Outcome State Fault Refusal) (k : State → Host.Outcome State Fault Refusal) :
    Host.Outcome State Fault Refusal :=
  match o with
  | .next s => k s
  | .fault f => .fault f
  | .refused f => .refused f

end Sys2Proof.Machine
end

