-- ==== Sys2Proof/Machine/Operands.lean ====
section
/-! DEFINITION. Machine/Operands: how command bytes become values (spec/30_encoding.md R50, spec/20_memory.md R40,
R42) and how the compensation functions read the calibration entries and raw codes (spec/10_state.md R17, R19). -/

namespace Sys2Proof.Machine

/-- WRCAL's value `v16 = {B1, B0}`: `hi` in bits 15:8, `lo` in bits 7:0 (R40, R50). -/
def calValue (lo hi : Byte) : Half := hi ++ lo

/-- The raw code `(zext_8(B2) << 12) | (zext_8(B1) << 4) | (zext_8(B0) >> 4)`; bits 3:0 of `xlsb` do not contribute
(R42, R50). -/
def rawCode (msb lsb xlsb : Byte) : Raw :=
  (msb.zeroExtend 20 <<< 12) ||| (lsb.zeroExtend 20 <<< 4) ||| (xlsb.zeroExtend 20 >>> 4)

/-- `zext_16` of a calibration pattern (R6). -/
def zext16 (b : Half) : Int := b.toNat

/-- `sext_16` of a calibration pattern (R6). -/
def sext16 (b : Half) : Int := b.toInt

/-- `zext_20` of a raw code (R6, R19). -/
def zext20 (b : Raw) : Int := b.toNat

/-- `T1 = zext_16(CAL[0])` (R17). -/
def coefT1 (cal : CalFile) : Int := zext16 cal[0]
/-- `T2 = sext_16(CAL[1])` (R17). -/
def coefT2 (cal : CalFile) : Int := sext16 cal[1]
/-- `T3 = sext_16(CAL[2])` (R17). -/
def coefT3 (cal : CalFile) : Int := sext16 cal[2]
/-- `P1 = zext_16(CAL[3])` (R17). -/
def coefP1 (cal : CalFile) : Int := zext16 cal[3]
/-- `P2 = sext_16(CAL[4])` (R17). -/
def coefP2 (cal : CalFile) : Int := sext16 cal[4]
/-- `P3 = sext_16(CAL[5])` (R17). -/
def coefP3 (cal : CalFile) : Int := sext16 cal[5]
/-- `P4 = sext_16(CAL[6])` (R17). -/
def coefP4 (cal : CalFile) : Int := sext16 cal[6]
/-- `P5 = sext_16(CAL[7])` (R17). -/
def coefP5 (cal : CalFile) : Int := sext16 cal[7]
/-- `P6 = sext_16(CAL[8])` (R17). -/
def coefP6 (cal : CalFile) : Int := sext16 cal[8]
/-- `P7 = sext_16(CAL[9])` (R17). -/
def coefP7 (cal : CalFile) : Int := sext16 cal[9]
/-- `P8 = sext_16(CAL[10])` (R17). -/
def coefP8 (cal : CalFile) : Int := sext16 cal[10]
/-- `P9 = sext_16(CAL[11])` (R17). -/
def coefP9 (cal : CalFile) : Int := sext16 cal[11]

end Sys2Proof.Machine
end

