-- ==== Sys2Proof/Machine/Flags.lean ====
section
/-! DEFINITION. Machine/Flags: the checked signed step and its overflow indicator (spec/00_scope.md R8), and the
STATUS word as a view of the state (spec/10_state.md R30). -/

namespace Sys2Proof.Machine

/-- The value of a checked step and whether its exact result left the signed 32-bit range. -/
structure Checked where
  val : Int
  ovf : Bool
  deriving DecidableEq, Repr

/-- `v < -2^31 or v > 2^31-1`: the test of R8. -/
def leavesS32 (v : Int) : Bool := decide (v < -2 ^ 31 ∨ v > 2 ^ 31 - 1)

/-- `chk(v)`: the value `s32(v)`, with the overflow indicator beside it (R8). A function's final `ovf` is the
disjunction of the indicators of its checked steps, since `ovf` starts at 0 and a step only ever sets it. -/
def chk (v : Int) : Checked := ⟨s32 v, leavesS32 v⟩

/-- One flag as a bit of STATUS. -/
def flagBit (b : Bool) : BitVec 1 := BitVec.ofBool b

/-- `STATUS = {8'b0, SMASK[11:0], ERRCODE[3:0], PRESV, OVFP, OVFT, PINV, FINEV, RAWPV, RAWTV, CALV}` (R30). -/
def statusWord (s : State) : Word :=
  (0#8 : BitVec 8) ++ s.smask ++ s.errcode ++ flagBit s.presv ++ flagBit s.ovfp ++ flagBit s.ovft ++
    flagBit s.pinv ++ flagBit s.finev ++ flagBit s.rawpv ++ flagBit s.rawtv ++ flagBit s.calv

end Sys2Proof.Machine
end

