-- ==== Sys2Proof/Machine/Calibration.lean ====
section
/-! DEFINITION. Machine/Calibration: WRCAL and COMMIT (spec/40_calibration.md R58, R59), each with its checks in the
order of spec/60_exceptions.md R76. The field check RSVD_FIELD comes before, in the decoder (R52). -/

namespace Sys2Proof.Machine

/-- WRCAL k, lo, hi (R58): BAD_INDEX, then CAL_LOCKED, then the write of one staged entry. -/
def execWrcal (k : Nat) (lo hi : Byte) (s : State) : Host.Outcome State Fault Refusal :=
  if k ≥ Config.nCal then .next (reject .badIndex s)
  else if s.calv then .next (reject .calLocked s)
  else .next (stageEntry k (calValue lo hi) s)

/-- COMMIT (R59): CAL_LOCKED, then CAL_INCOMPLETE, then all twelve entries become active at once. SMASK stays. -/
def execCommit (s : State) : Host.Outcome State Fault Refusal :=
  if s.calv then .next (reject .calLocked s)
  else if s.smask ≠ 0xFFF#12 then .next (reject .calIncomplete s)
  else .next (activateStage s)

end Sys2Proof.Machine
end

