-- ==== Sys2Proof/Machine/Compensation.lean ====
section
/-! DEFINITION. Machine/Compensation: the functions CompT and CompP step by step (spec/42_compensation.md R62, R63),
and the commands COMPT and COMPP that apply them to the registers (R64, R65). The names of the steps are the spec's.
An S step is narrowed by `chk`, a U step by `u32`; the functions return integers, which `toReg` puts into registers. -/

namespace Sys2Proof.Machine

/-- Every intermediate of CompT, under R62's names, and the final `ovf`. -/
structure TempSteps where
  a : Int
  b : Int
  c : Int
  d : Int
  var1 : Int
  e : Int
  f : Int
  g : Int
  h : Int
  var2 : Int
  fine : Int
  i : Int
  j : Int
  temp : Int
  ovf : Bool
  deriving DecidableEq, Repr

/-- CompT (R62): `fine`, `temp` and `ovf` of the result are the function's three values. -/
def compT (raw20 : Raw) (cal : CalFile) : TempSteps :=
  let r := zext20 raw20
  let a := asr r 3
  let b := chk (shl (coefT1 cal) 1)
  let c := chk (a - b.val)
  let d := chk (c.val * coefT2 cal)
  let var1 := asr d.val 11
  let e := chk (asr r 4 - coefT1 cal)
  let f := chk (e.val * e.val)
  let g := asr f.val 12
  let h := chk (g * coefT3 cal)
  let var2 := asr h.val 14
  let fine := chk (var1 + var2)
  let i := chk (fine.val * 5)
  let j := chk (i.val + 128)
  let temp := asr j.val 8
  { a := a, b := b.val, c := c.val, d := d.val, var1 := var1, e := e.val, f := f.val, g := g, h := h.val,
    var2 := var2, fine := fine.val, i := i.val, j := j.val, temp := temp,
    ovf := b.ovf || c.ovf || d.ovf || e.ovf || f.ovf || h.ovf || fine.ovf || i.ovf || j.ovf }

/-- What steps 1 to 6 of CompP leave: `v1` after steps 1, 5 and 6, `v2` after step 4, and `ovf` so far. -/
structure PressPoly where
  v1Step1 : Int
  v2Step4 : Int
  v1Step5 : Int
  v1Step6 : Int
  ovf : Bool
  deriving DecidableEq, Repr

/-- Steps 1 to 6 of CompP (R63): the signed polynomial, up to the denominator `v1`. -/
def pressPoly (fine : Int) (cal : CalFile) : PressPoly :=
  -- step 1
  let v1 := chk (asr fine 1 - 64000)
  -- step 2
  let q := asr v1.val 2
  let qq := chk (q * q)
  let v2a := chk (asr qq.val 11 * coefP6 cal)
  -- step 3
  let v1p5 := chk (v1.val * coefP5 cal)
  let dbl := chk (shl v1p5.val 1)
  let v2b := chk (v2a.val + dbl.val)
  -- step 4
  let p4 := chk (shl (coefP4 cal) 16)
  let v2c := chk (asr v2b.val 2 + p4.val)
  -- step 5, with the v1 of step 1
  let x := chk (coefP3 cal * asr qq.val 13)
  let y := chk (coefP2 cal * v1.val)
  let xy := chk (asr x.val 3 + asr y.val 1)
  let v1five := asr xy.val 18
  -- step 6
  let m := chk (32768 + v1five)
  let mp := chk (m.val * coefP1 cal)
  let v1six := asr mp.val 15
  { v1Step1 := v1.val, v2Step4 := v2c.val, v1Step5 := v1five, v1Step6 := v1six,
    ovf := v1.ovf || qq.ovf || v2a.ovf || v1p5.ovf || dbl.ovf || v2b.ovf || p4.ovf || v2c.ovf ||
      x.ovf || y.ovf || xy.ovf || m.ovf || mp.ovf }

/-- Step 8 of CompP (R63), unsigned: `(1048576 - raw - (v2 >> 12)) * 3125`. -/
def pressStep8 (raw20 : Raw) (v2 : Int) : Int :=
  u32 (u32 (u32 (1048576 - zext20 raw20) - u32 (asr v2 12)) * 3125)

/-- Step 9 of CompP (R63), unsigned: the overflow-guarded division by the nonzero `v1`. -/
def pressStep9 (p v1 : Int) : Int :=
  if p < 0x80000000 then udiv (u32 (shl p 1)) (u32 v1)
  else u32 (shl (udiv p (u32 v1)) 1)

/-- What steps 10 to 12 of CompP compute from the quotient `p`: `t`, `v1`, `v2`, the correction `e`, and the overflow
of these steps. -/
structure PressCorr where
  t : Int
  v1Step10 : Int
  v2Step11 : Int
  e : Int
  ovf : Bool
  deriving DecidableEq, Repr

/-- Steps 10, 11 and the correction of step 12 (R63). -/
def pressCorr (p : Int) (cal : CalFile) : PressCorr :=
  -- step 10
  let t := lsr (u32 (lsr p 3 * lsr p 3)) 13
  let p9t := chk (coefP9 cal * t)
  let v1 := asr p9t.val 12
  -- step 11
  let pp8 := chk (lsr p 2 * coefP8 cal)
  let v2 := asr pp8.val 13
  -- step 12
  let sum := chk (v1 + v2)
  let sum7 := chk (sum.val + coefP7 cal)
  { t := t, v1Step10 := v1, v2Step11 := v2, e := asr sum7.val 4,
    ovf := p9t.ovf || pp8.ovf || sum.ovf || sum7.ovf }

/-- The four values of CompP (R63). -/
structure PressResult where
  pcomp : Int
  pout : Int
  inv : Bool
  ovf : Bool
  deriving DecidableEq, Repr

/-- CompP (R63): the polynomial, the guard of step 7 with its sentinel (R69, R78), the division, the correction added
modulo 2^32, and the scaled output. -/
def compP (raw20 : Raw) (fine : Int) (cal : CalFile) : PressResult :=
  let s := pressPoly fine cal
  if s.v1Step6 = 0 then
    { pcomp := 0, pout := 0, inv := true, ovf := s.ovf }
  else
    let p := pressStep9 (pressStep8 raw20 s.v2Step4) s.v1Step6
    let k := pressCorr p cal
    let p' := u32 (p + k.e)
    { pcomp := p', pout := u32 (p' * Config.poutScale), inv := false, ovf := s.ovf || k.ovf }

/-- COMPT (R64): NO_CAL, then NO_RAW, then CompT of RAW_T and CAL into FINE, TEMP and OVFT. -/
def execCompt (s : State) : Host.Outcome State Fault Refusal :=
  if !s.calv then .next (reject .noCal s)
  else if !s.rawtv then .next (reject .noRaw s)
  else
    let r := compT s.rawT s.cal
    .next (storeTemp r.fine r.temp r.ovf s)

/-- COMPP (R65): NO_CAL, then NO_RAW, then NO_FINE, then CompP of RAW_P, FINE and CAL into PCOMP, POUT, PINV and OVFP.
The sentinel is a completion, not a rejection (R78). -/
def execCompp (s : State) : Host.Outcome State Fault Refusal :=
  if !s.calv then .next (reject .noCal s)
  else if !s.rawpv then .next (reject .noRaw s)
  else if !s.finev then .next (reject .noFine s)
  else
    let r := compP s.rawP (asS s.fine) s.cal
    .next (storePress r.pcomp r.pout r.inv r.ovf s)

end Sys2Proof.Machine
end

