-- ==== Sys2Proof/Machine/Control.lean ====
section
/-! DEFINITION. Machine/Control: NOP and CLRERR (spec/43_control.md R70, R71). -/

namespace Sys2Proof.Machine

/-- NOP (R70): no effect; ERRCODE stays. -/
def execNop (s : State) : Host.Outcome State Fault Refusal := .next s

/-- CLRERR (R71): ERRCODE <- 0, and nothing else. -/
def execClrerr (s : State) : Host.Outcome State Fault Refusal := .next (clearError s)

end Sys2Proof.Machine
end

