-- ==== Sys2Proof/Machine/RawLoad.lean ====
section
/-! DEFINITION. Machine/RawLoad: LDRAWT and LDRAWP (spec/41_raw_load.md R60, R61). Beyond the field check of the
decoder nothing can reject them: every byte value is legal, before and after COMMIT. -/

namespace Sys2Proof.Machine

/-- LDRAWT msb, lsb, xlsb (R60). -/
def execLdrawt (msb lsb xlsb : Byte) (s : State) : Host.Outcome State Fault Refusal :=
  .next (loadRawT (rawCode msb lsb xlsb) s)

/-- LDRAWP msb, lsb, xlsb (R61). -/
def execLdrawp (msb lsb xlsb : Byte) (s : State) : Host.Outcome State Fault Refusal :=
  .next (loadRawP (rawCode msb lsb xlsb) s)

end Sys2Proof.Machine
end

