-- ==== Sys2Proof/Machine/Dispatch.lean ====
section
/-! DEFINITION. Machine/Dispatch: the meaning of each command, one arm per constructor of Instr (spec/30_encoding.md R51). -/

namespace Sys2Proof.Machine

def exec (i : Instr) (s : State) : Host.Outcome State Fault Refusal :=
  match i with
  | .nop => Sys2Proof.Machine.execNop s
  | .wrcal k lo hi => Sys2Proof.Machine.execWrcal k lo hi s
  | .commit => Sys2Proof.Machine.execCommit s
  | .ldrawt msb lsb xlsb => Sys2Proof.Machine.execLdrawt msb lsb xlsb s
  | .ldrawp msb lsb xlsb => Sys2Proof.Machine.execLdrawp msb lsb xlsb s
  | .compt => Sys2Proof.Machine.execCompt s
  | .compp => Sys2Proof.Machine.execCompp s
  | .clrerr => Sys2Proof.Machine.execClrerr s

end Sys2Proof.Machine
end

