-- ==== Sys2Proof/Machine/HostWindow.lean ====
section
/-! DEFINITION. Machine/HostWindow: executing a command word (spec/30_encoding.md R52), the host window's register map
and its reads and writes (spec/20_memory.md R35 to R39), the reset event (spec/70_reset_and_hazards.md R87, R88), and
serving the host's transactions one at a time (R43, R44). -/

namespace Sys2Proof.Machine

/-- `Execute(w)` (R52): dispatch the decoded command, or reject the word. -/
def execute (w : Word) (s : State) : Host.Outcome State Fault Refusal :=
  match decode w with
  | .command i => exec i s
  | .rejected e => .next (reject e s)

/-- A list of commands executed in order, each to completion (R43, R57). -/
def execAll : List Instr → State → Host.Outcome State Fault Refusal
  | [], s => .next s
  | i :: is, s => andThen (exec i s) (execAll is)

/-- The register at an offset of the window (R35); none for an offset with `off[1:0] != 0` and for 0x50 to 0xFF
(R36, R38). -/
def windowReg (off : Offset) : Option WindowReg :=
  if off.toNat % 4 ≠ 0 then none
  else if off.toNat = 0x00 then some .cmd
  else if off.toNat = 0x04 then some .status
  else if off.toNat = 0x08 then some .fine
  else if off.toNat = 0x0C then some .temp
  else if off.toNat = 0x10 then some .pcomp
  else if off.toNat = 0x14 then some .pout
  else if off.toNat = 0x18 then some .rawT
  else if off.toNat = 0x1C then some .rawP
  else if h : off.toNat < 0x50 then some (.cal ⟨(off.toNat - 0x20) / 4, by omega⟩)
  else none

/-- What a register reads as (R35): CMD reads 0, raw codes and CAL entries are zero-extended. -/
def windowContent (s : State) : WindowReg → Word
  | .cmd => 0
  | .status => statusWord s
  | .fine => s.fine
  | .temp => s.temp
  | .pcomp => s.pcomp
  | .pout => s.pout
  | .rawT => s.rawT.zeroExtend 32
  | .rawP => s.rawP.zeroExtend 32
  | .cal k => s.cal[k].zeroExtend 32

/-- `HostRead(off)` (R36): the response and the value. It changes no state. -/
def hostRead (off : Offset) (s : State) : BusResp × Word :=
  match windowReg off with
  | some r => (.OK, windowContent s r)
  | none => (.ERR, 0)

/-- `HostWrite(off, w)` (R37): at CMD, the word executes to completion and the answer is OK, a rejected word's too;
anywhere else the answer is ERR and nothing changes (R38). -/
def hostWrite (off : Offset) (w : Word) (s : State) : Host.Outcome State Fault Refusal :=
  if windowReg off = some .cmd then answer (.plain .OK) (execute w s)
  else .next (respond (.plain .ERR) s)

/-- The reset event (R87): every register takes its value of R33. What the host has still to issue is the host's and
stays; no answer is given (log entry 3). -/
def resetEvent (s : State) : State := withPending s.pending State.reset

/-- One transaction (R85). An access that is not 4 bytes wide is answered ERR and changes nothing (R39). -/
def serve (t : HostTxn) (s : State) : Host.Outcome State Fault Refusal :=
  match t with
  | .read width off =>
    if width ≠ 4 then .next (respond (.plain .ERR) s)
    else .next (respond (.data (hostRead off s).1 (hostRead off s).2) s)
  | .write width off w =>
    if width ≠ 4 then .next (respond (.plain .ERR) s)
    else hostWrite off w s
  | .reset => .next (resetEvent s)

/-- The next transaction in the host's order (R44). While the host issues none, the engine does nothing: it acts only
on transactions (R13, R45; log entry 2). -/
def serveNext (s : State) : Host.Outcome State Fault Refusal :=
  match s.pending with
  | [] => .next s
  | t :: rest => serve t (withPending rest s)

/-- The host's next transaction is a write of the word `w` to CMD; the transactions that wait come after it. -/
def issueCommand (w : Word) (s : State) : State := withPending (.write 4 0x00 w :: s.pending) s

end Sys2Proof.Machine
end

