-- ==== Sys2Proof/Machine/Step.lean ====
section
/-! DEFINITION. Machine/Step: one step serves one host transaction (spec/10_state.md R13; spec/20_memory.md R43, R44). The
engine fetches nothing (R45): its program is the sequence of words the host writes to CMD (R31), so the place a next
command comes from is the front of `pending` (log entries 1 and 4). -/

namespace Sys2Proof.Machine

/-- One step of the engine. -/
def step (s : State) : Host.Outcome State Fault Refusal := serveNext s

/-- The state in which the host's next transaction writes the given command word to CMD, so that the very next step
executes exactly it (log entry 4). -/
def State.withFetchWord (s : State) (nbits w : Nat) : State := issueCommand (tableWord nbits w) s

end Sys2Proof.Machine
end

