-- ==== Sys2Proof/Machine/Assembler.lean ====
section
/-! DEFINITION. Machine/Assembler: the assembler lines and pseudo-instructions of spec/30_encoding.md R55 and R56 and the
program lines of R57, what the host issues for each, and a reader of their text. This is the host's side: the engine
sees only the transactions that come of it. -/

namespace Sys2Proof.Machine

/-- The pseudo-instructions (R56). Coefficients are integers, since a negative one may be written. -/
inductive Pseudo where
  | ldcal (k : Nat) (v16 : Int)
  | calset (coefs : Vector Int 12)
  | setrawt (code : Raw)
  | setrawp (code : Raw)
  | measure
  deriving DecidableEq, Repr

/-- One line of a host program (R55, R56, R57). -/
inductive Line where
  | cmd (i : Instr)
  | word (w : Word)
  | pseudo (p : Pseudo)
  | read (r : WindowReg)
  | reset
  deriving DecidableEq, Repr

/-- A coefficient as its 16-bit pattern: `u32(v) mod 2^16` (R56). -/
def coefPattern (v : Int) : Half := BitVec.ofInt 16 (u32 v)

/-- `LDCAL k, v16` is `WRCAL k, v16[7:0], v16[15:8]` (R56). -/
def ldcal (k : Nat) (v16 : Int) : Instr :=
  .wrcal k ((coefPattern v16).extractLsb' 0 8) ((coefPattern v16).extractLsb' 8 8)

/-- The low byte SETRAWT and SETRAWP carry, `code[3:0]<<4` (R56). -/
def codeXlsb (code : Raw) : Byte := (code.extractLsb' 0 4 : BitVec 4) ++ (0#4 : BitVec 4)

/-- The commands a pseudo-instruction expands to (R56). -/
def Pseudo.expand : Pseudo → List Instr
  | .ldcal k v => [Machine.ldcal k v]
  | .calset coefs => (List.finRange 12).map (fun k => Machine.ldcal k.val coefs[k]) ++ [.commit]
  | .setrawt code => [.ldrawt (code.extractLsb' 12 8) (code.extractLsb' 4 8) (codeXlsb code)]
  | .setrawp code => [.ldrawp (code.extractLsb' 12 8) (code.extractLsb' 4 8) (codeXlsb code)]
  | .measure => [.compt, .compp]

/-- The offset of a register of the window (R35). -/
def regOffset : WindowReg → Offset
  | .cmd => 0x00
  | .status => 0x04
  | .fine => 0x08
  | .temp => 0x0C
  | .pcomp => 0x10
  | .pout => 0x14
  | .rawT => 0x18
  | .rawP => 0x1C
  | .cal k => BitVec.ofNat 8 (0x20 + 4 * k.val)

/-- A command line means `HostWrite(0x00, encoding)` (R57). -/
def writeCmd (w : Word) : HostTxn := .write 4 0x00 w

/-- What the host issues for a line (R57). -/
def Line.txns : Line → List HostTxn
  | .cmd i => [writeCmd (encode i)]
  | .word w => [writeCmd w]
  | .pseudo p => p.expand.map (fun i => writeCmd (encode i))
  | .read r => [.read 4 (regOffset r)]
  | .reset => [.reset]

/-- A coefficient some 16-bit pattern stands for, read unsigned or signed (log entry 11). -/
def coefInRange (v : Int) : Bool := decide (-32768 ≤ v ∧ v ≤ 65535)

/-- What an assembler accepts: a WRCAL index at most 15 (R55) and coefficients of 16 bits (log entry 11). The other
bounds of R55 are those of the operands' types. -/
def Line.accepted : Line → Bool
  | .cmd i => i.wellFormed
  | .pseudo (.ldcal k v) => decide (k ≤ 15) && coefInRange v
  | .pseudo (.calset coefs) => coefs.toList.all coefInRange
  | _ => true

/-- The transactions of a program, or none where the assembler refuses a line. -/
def assemble (ls : List Line) : Option (List HostTxn) :=
  if ls.all Line.accepted then some (ls.flatMap Line.txns) else none

/-- The state in which the host is about to issue a program, after what it already has to issue (R57; log entry 4). -/
def loadProgram (ts : List HostTxn) (s : State) : State := withPending (s.pending ++ ts) s

/-! Reading the text (R55, R57): one command a line, operands between commas, decimal or `0x` numbers (`_` may separate
digits of a hexadecimal one, R5), `;` before a comment. White space around words is skipped (log entry 11). -/

/-- The pieces of a text between the characters `c`. -/
def splitAtChar (c : Char) : List Char → List (List Char)
  | [] => [[]]
  | x :: xs =>
    if x = c then [] :: splitAtChar c xs
    else
      match splitAtChar c xs with
      | [] => [[x]]
      | y :: ys => (x :: y) :: ys

/-- White space within a line. -/
def isBlank (c : Char) : Bool := c = ' ' || c = '\t' || c = '\r'

/-- A text without the white space at its two ends. -/
def trimBlank (cs : List Char) : List Char :=
  ((cs.dropWhile isBlank).reverse.dropWhile isBlank).reverse

/-- The value of a digit, in decimal or hexadecimal. -/
def digitValue (c : Char) : Option Nat :=
  if '0' ≤ c ∧ c ≤ '9' then some (c.toNat - '0'.toNat)
  else if 'a' ≤ c ∧ c ≤ 'f' then some (c.toNat - 'a'.toNat + 10)
  else if 'A' ≤ c ∧ c ≤ 'F' then some (c.toNat - 'A'.toNat + 10)
  else none

/-- Digits in a base, most significant first, after the value read so far. -/
def readDigits (base : Nat) : List Char → Nat → Option Nat
  | [], acc => some acc
  | c :: cs, acc =>
    match digitValue c with
    | some d => if d < base then readDigits base cs (acc * base + d) else none
    | none => none

/-- A decimal or `0x` number. -/
def readNat (cs : List Char) : Option Nat :=
  match cs with
  | '0' :: 'x' :: c :: rest => if c = '_' then none else readDigits 16 ((c :: rest).filter (· ≠ '_')) 0
  | c :: rest => readDigits 10 (c :: rest) 0
  | [] => none

/-- A number with an optional minus sign, for coefficients. -/
def readInt (cs : List Char) : Option Int :=
  match cs with
  | '-' :: rest => (readNat rest).map (fun n => -(n : Int))
  | _ => (readNat cs).map (fun n => (n : Int))

/-- A byte operand: a number in 0..255 (R55). -/
def readByte (cs : List Char) : Option Byte :=
  match readNat cs with
  | some n => if n ≤ 255 then some (BitVec.ofNat 8 n) else none
  | none => none

/-- Three byte operands. -/
def readBytes3 : List (List Char) → Option (Byte × Byte × Byte)
  | [a, b, c] =>
    match readByte a, readByte b, readByte c with
    | some x, some y, some z => some (x, y, z)
    | _, _, _ => none
  | _ => none

/-- A raw code operand: a number of 20 bits (R56). -/
def readCode : List (List Char) → Option Raw
  | [a] =>
    match readNat a with
    | some n => if n ≤ 0xFFFFF then some (BitVec.ofNat 20 n) else none
    | none => none
  | _ => none

/-- All of a list's texts as numbers, or none. -/
def readInts : List (List Char) → Option (List Int)
  | [] => some []
  | a :: rest =>
    match readInt a, readInts rest with
    | some x, some xs => some (x :: xs)
    | _, _ => none

/-- A register's name after READ (R57); the mark `->` and the value after it record the result and are no part of the
transaction. -/
def readReg (cs : List Char) : Option WindowReg :=
  let name := trimBlank (cs.takeWhile (· ≠ '-'))
  if name = "CMD".toList then some .cmd
  else if name = "STATUS".toList then some .status
  else if name = "FINE".toList then some .fine
  else if name = "TEMP".toList then some .temp
  else if name = "PCOMP".toList then some .pcomp
  else if name = "POUT".toList then some .pout
  else if name = "RAW_T".toList then some .rawT
  else if name = "RAW_P".toList then some .rawP
  else if name.take 4 = "CAL[".toList ∧ name.getLast? = some ']' then
    match readNat (name.drop 4).dropLast with
    | some k => if h : k < 12 then some (.cal ⟨k, h⟩) else none
    | none => none
  else none

/-- A command's line, from its mnemonic and its operands' texts. -/
def readCommand (mn : List Char) (args : List (List Char)) : Option Line :=
  if mn = "NOP".toList then (if args = [] then some (.cmd .nop) else none)
  else if mn = "COMMIT".toList then (if args = [] then some (.cmd .commit) else none)
  else if mn = "COMPT".toList then (if args = [] then some (.cmd .compt) else none)
  else if mn = "COMPP".toList then (if args = [] then some (.cmd .compp) else none)
  else if mn = "CLRERR".toList then (if args = [] then some (.cmd .clrerr) else none)
  else if mn = "MEASURE".toList then (if args = [] then some (.pseudo .measure) else none)
  else if mn = "RESET".toList then (if args = [] then some .reset else none)
  else if mn = "LDRAWT".toList then (readBytes3 args).map (fun b => .cmd (.ldrawt b.1 b.2.1 b.2.2))
  else if mn = "LDRAWP".toList then (readBytes3 args).map (fun b => .cmd (.ldrawp b.1 b.2.1 b.2.2))
  else if mn = "SETRAWT".toList then (readCode args).map (fun c => .pseudo (.setrawt c))
  else if mn = "SETRAWP".toList then (readCode args).map (fun c => .pseudo (.setrawp c))
  else if mn = "WRCAL".toList then
    match args with
    | [a, b, c] =>
      match readNat a, readByte b, readByte c with
      | some k, some lo, some hi => some (.cmd (.wrcal k lo hi))
      | _, _, _ => none
    | _ => none
  else if mn = "LDCAL".toList then
    match args with
    | [a, b] =>
      match readNat a, readInt b with
      | some k, some v => some (.pseudo (.ldcal k v))
      | _, _ => none
    | _ => none
  else if mn = "CALSET".toList then
    match readInts args with
    | some xs => if h : xs.length = 12 then some (.pseudo (.calset ⟨xs.toArray, by simpa using h⟩)) else none
    | none => none
  else if mn = ".word".toList then
    match args with
    | [a] =>
      match readNat a with
      | some n => if n < 2 ^ 32 then some (.word (BitVec.ofNat 32 n)) else none
      | none => none
    | _ => none
  else none

/-- One line of text: no line at all (blank, or a comment only), one line, or none where it does not read. -/
def readLine (cs : List Char) : Option (List Line) :=
  let t := trimBlank (cs.takeWhile (· ≠ ';'))
  let mn := t.takeWhile (fun c => !isBlank c)
  let rest := trimBlank (t.dropWhile (fun c => !isBlank c))
  if t = [] then some []
  else if mn = "READ".toList then (readReg rest).map (fun r => [.read r])
  else
    let args := if rest = [] then [] else (splitAtChar ',' rest).map trimBlank
    (readCommand mn args).map (fun l => [l])

/-- The lines of a text, or none where some line does not read. -/
def readLines : List (List Char) → Option (List Line)
  | [] => some []
  | cs :: rest =>
    match readLine cs, readLines rest with
    | some l, some ls => some (l ++ ls)
    | _, _ => none

/-- The transactions of a program's text, or none where the assembler refuses it (R55 to R57). -/
def assembleText (text : String) : Option (List HostTxn) :=
  match readLines (splitAtChar '\n' text.toList) with
  | some ls => assemble ls
  | none => none

end Sys2Proof.Machine
end

