-- ==== Sys2Proof/Machine/Listing.lean ====
section
/-! DEFINITION. Machine/Listing: the source's own two listings, as spec/42_compensation.md R62 and R63 quote them, on
32-bit two's-complement words: `+`, `-` and `*` keep the low 32 bits, a left shift is a bit shift, a signed right shift
repeats the sign bit, an unsigned one shifts in zeros, and the comparison and the division are unsigned (R66, R67).
The machine does not run these; CompT and CompP (Machine/Compensation.lean) follow the spec's stepwise form, and the
claims compare the two. -/

namespace Sys2Proof.Machine

/-- A coefficient read unsigned, widened to a word (R17). -/
def wordZ (b : Half) : Word := b.zeroExtend 32

/-- A coefficient read signed, widened to a word (R17). -/
def wordS (b : Half) : Word := b.signExtend 32

/-- R62's listing: `(fine, compensated)`. -/
def listingTemp (raw_temp : Raw) (cal : CalFile) : Word × Word :=
  let r : Word := raw_temp.zeroExtend 32
  let T1 := wordZ cal[0]
  let T2 := wordS cal[1]
  let T3 := wordS cal[2]
  let var1 := ((r.sshiftRight 3 - (T1 <<< 1)) * T2).sshiftRight 11
  let var2 := ((((r.sshiftRight 4 - T1) * (r.sshiftRight 4 - T1)).sshiftRight 12) * T3).sshiftRight 14
  let fine := var1 + var2
  (fine, (fine * 5 + 128).sshiftRight 8)

/-- R63's listing up to the line before the guard: `(v1, v2)`. -/
def listingPoly (fine : Word) (cal : CalFile) : Word × Word :=
  let P1 := wordZ cal[3]
  let P2 := wordS cal[4]
  let P3 := wordS cal[5]
  let P4 := wordS cal[6]
  let P5 := wordS cal[7]
  let P6 := wordS cal[8]
  let v1 := fine.sshiftRight 1 - 64000
  let v2 := ((v1.sshiftRight 2 * v1.sshiftRight 2).sshiftRight 11) * P6
  let v2 := v2 + ((v1 * P5) <<< 1)
  let v2 := v2.sshiftRight 2 + (P4 <<< 16)
  let v1 := (((P3 * ((v1.sshiftRight 2 * v1.sshiftRight 2).sshiftRight 13)).sshiftRight 3) +
    ((P2 * v1).sshiftRight 1)).sshiftRight 18
  let v1 := ((32768 + v1) * P1).sshiftRight 15
  (v1, v2)

/-- R63's listing: none where it returns the sentinel, else the `p` of its last line but one (R24). -/
def listingPress (raw_press : Raw) (fine : Word) (cal : CalFile) : Option Word :=
  let P7 := wordS cal[9]
  let P8 := wordS cal[10]
  let P9 := wordS cal[11]
  let v1 := (listingPoly fine cal).1
  let v2 := (listingPoly fine cal).2
  if v1 = 0 then none
  else
    let p := (1048576 - raw_press.zeroExtend 32 - v2.sshiftRight 12) * 3125
    let p := if p < 0x80000000 then (p <<< 1) / v1 else (p / v1) <<< 1
    let v1 := (P9 * (((p >>> 3) * (p >>> 3)) >>> 13)).sshiftRight 12
    let v2 := ((p >>> 2) * P8).sshiftRight 13
    some (p + (v1 + v2 + P7).sshiftRight 4)

end Sys2Proof.Machine
end

