-- ==== Sys2Proof/Machine/Sensor.lean ====
section
/-! DEFINITION. Machine/Sensor: the host's side of the sensor bytes (spec/20_memory.md R40 to R42, spec/70_reset_and_hazards.md
R89). The engine never accesses the sensor (R34); these definitions say which sensor byte goes into which command. A
sensor is given as what its byte at each address reads, `dev : Nat → Byte`; it is no part of State. -/

namespace Sys2Proof.Machine

/-- The chip-id register (R41). Its value `CHIP_ID` is OPEN. -/
def sensorChipId : Nat := 0xD0
/-- The control register (R41). The value `CTRL_MEAS` the host writes is OPEN. -/
def sensorCtrl : Nat := 0xF4
/-- The first address of the calibration block (R41). -/
def sensorCalStart : Nat := 0x88
/-- The last address of the calibration block (R41); its bytes 0xA0 and 0xA1 reach no command (90_conflicts.md C2). -/
def sensorCalEnd : Nat := 0xA1
/-- The pressure MSB, LSB and XLSB (R41). -/
def sensorPress : Nat × Nat × Nat := (0xF7, 0xF8, 0xF9)
/-- The temperature MSB, LSB and XLSB (R41). -/
def sensorTemp : Nat × Nat × Nat := (0xFA, 0xFB, 0xFC)

/-- Where the low byte of coefficient `k` is (R40). -/
def calLoAddr (k : Nat) : Nat := 0x88 + 2 * k
/-- Where the high byte of coefficient `k` is (R40). -/
def calHiAddr (k : Nat) : Nat := 0x89 + 2 * k

/-- The WRCAL that carries coefficient `k` (R40, R58). -/
def wrcalFrom (dev : Nat → Byte) (k : Nat) : Instr := .wrcal k (dev (calLoAddr k)) (dev (calHiAddr k))

/-- Steps 2 to 4 of R89: the twelve entries, then COMMIT. -/
def calLoad (dev : Nat → Byte) : List Instr :=
  (List.range Config.nCal).map (wrcalFrom dev) ++ [.commit]

/-- The LDRAWT that carries the temperature bytes (R42, R60). -/
def ldrawtFrom (dev : Nat → Byte) : Instr :=
  .ldrawt (dev sensorTemp.1) (dev sensorTemp.2.1) (dev sensorTemp.2.2)

/-- The LDRAWP that carries the pressure bytes (R42, R61). -/
def ldrawpFrom (dev : Nat → Byte) : Instr :=
  .ldrawp (dev sensorPress.1) (dev sensorPress.2.1) (dev sensorPress.2.2)

/-- The commands of step 5 of R89, one measurement. -/
def measurement (dev : Nat → Byte) : List Instr := [ldrawtFrom dev, .compt, ldrawpFrom dev, .compp]

end Sys2Proof.Machine
end

