-- ==== Sys2Proof/Safety.lean ====
section
/-! DEFINITION. Safety: the states the engine can be in, as an invariant read from the spec's rules about who writes what,
and the words the claims use for an execution's checks. Nothing here is part of the machine. -/

namespace Sys2Proof.Machine

/-- COMPT's checks pass (R64). -/
abbrev TempEnabled (s : State) : Prop := s.calv = true ∧ s.rawtv = true

/-- COMPP's checks pass (R65). -/
abbrev PressEnabled (s : State) : Prop := s.calv = true ∧ s.rawpv = true ∧ s.finev = true

/-- The temperature R62 gives for a fine temperature: `(fine * 5 + 128) >> 8`. -/
def tempOfFine (fine : Int) : Int := asr (s32 (s32 (fine * 5) + 128)) 8

/-- What holds of the registers at reset and after every transaction. -/
structure State.Inv (s : State) : Prop where
  /-- ERRCODE is one of R73's codes: 9 to 15 are never written. -/
  errcode_used : s.errcode.toNat ≤ 8
  /-- An entry not staged since reset still holds its reset value (R14, R15, R33). -/
  unstaged_zero : ∀ k : Fin 12, s.smask[k] = false → s.stage[k] = 0
  /-- While CALV is 1 the whole staging file has been written and is the active set (R15, R18, R59). -/
  committed : s.calv = true → s.smask = 0xFFF#12 ∧ s.cal = s.stage
  /-- While CALV is 0 no set has become active (R16, R33). -/
  uncommitted : s.calv = false → s.cal = zeroCal
  /-- RAW_T holds its reset value until it is loaded (R19, R20, R33). -/
  rawT_unloaded : s.rawtv = false → s.rawT = 0
  /-- RAW_P holds its reset value until it is loaded (R19, R20, R33). -/
  rawP_unloaded : s.rawpv = false → s.rawP = 0
  /-- A COMPT has completed only with a calibration and a raw temperature (R22, R64). -/
  fine_after_load : s.finev = true → s.calv = true ∧ s.rawtv = true
  /-- FINE and OVFT hold their reset values until a COMPT completes (R21, R28, R33). -/
  fine_uncomputed : s.finev = false → s.fine = 0 ∧ s.ovft = false
  /-- FINE is a sum of an 11-bit and a 14-bit reduction of 32-bit values (R62). -/
  fine_range : -1179648 ≤ asS s.fine ∧ asS s.fine ≤ 1179646
  /-- TEMP is the temperature of FINE: COMPT writes both (R23, R64). -/
  temp_of_fine : s.temp = toReg (tempOfFine (asS s.fine))
  /-- A COMPP has completed only after a COMPT, with a raw pressure (R27, R65). -/
  press_after_fine : s.presv = true → s.calv = true ∧ s.rawpv = true ∧ s.finev = true
  /-- The pressure results hold their reset values until a COMPP completes (R24, R26, R28, R33). -/
  press_uncomputed : s.presv = false → s.pcomp = 0 ∧ s.pinv = false ∧ s.ovfp = false
  /-- POUT is PCOMP scaled, modulo 2^32 (R25). -/
  pout_of_pcomp : s.pout = toReg (u32 (asU s.pcomp * Config.poutScale))
  /-- A flagged sentinel is a PCOMP of 0 (R26, R78). -/
  sentinel_zero : s.pinv = true → s.pcomp = 0

/-- The checks of the command a word carries, in the order of R76's table: whether each cause applies, and the cause.
The fields are read as numbers of the word (R48). -/
def checks (w : Word) (s : State) : List (Bool × Rejection) :=
  let op := w.toNat / 2 ^ 28
  let idx := w.toNat / 2 ^ 24 % 16
  let b2 := w.toNat / 2 ^ 16 % 256
  let body := w.toNat % 2 ^ 28
  (decide (8 ≤ op), .illegalOpcode) ::
    (if op = 1 then
      [(decide (b2 ≠ 0), .rsvdField), (decide (12 ≤ idx), .badIndex), (s.calv, .calLocked)]
    else if op = 2 then
      [(decide (body ≠ 0), .rsvdField), (s.calv, .calLocked), (decide (s.smask ≠ 0xFFF#12), .calIncomplete)]
    else if op = 3 ∨ op = 4 then [(decide (idx ≠ 0), .rsvdField)]
    else if op = 5 then [(decide (body ≠ 0), .rsvdField), (!s.calv, .noCal), (!s.rawtv, .noRaw)]
    else if op = 6 then
      [(decide (body ≠ 0), .rsvdField), (!s.calv, .noCal), (!s.rawpv, .noRaw), (!s.finev, .noFine)]
    else [(decide (body ≠ 0), .rsvdField)])

/-- The first cause that applies (R76). -/
def firstCause : List (Bool × Rejection) → Option Rejection
  | [] => none
  | (true, e) :: _ => some e
  | (false, _) :: rest => firstCause rest

/-- What a word written to CMD is rejected for, if it is (R76). -/
def causeOf (w : Word) (s : State) : Option Rejection := firstCause (checks w s)

end Sys2Proof.Machine
end

