-- ==== Sys2Proof/Certificates/Slice0/Obligations.lean ====
section
/-! DEFINITION. Certificates/Slice0/Obligations: the statements for the provers. Each docstring names the rule of spec/ it
formalises, or says that the statement is derived. A next state is given as an update of the state before, so the
equation is the command's whole frame: every field it does not name is unchanged. The engine owns no memory (R34), so
no frame speaks of bytes of memory. -/

open Sys2Proof Sys2Proof.Machine

/-! ### Encoding -/

/-- A word of each command, and of each kind of rejected word, decodes to what the spec's examples say (R55's table and
the words of 95_test_vectors.md). Derived; a sanity check. -/
def Obligations.DecoderReadsSpecWords : Prop :=
  decode 0x00000000 = .command .nop ∧ decode 0x10006B70 = .command (.wrcal 0 0x70 0x6B) ∧
  decode 0x1C001234 = .command (.wrcal 12 0x34 0x12) ∧ decode 0x20000000 = .command .commit ∧
  decode 0x307EED00 = .command (.ldrawt 0x7E 0xED 0x00) ∧
  decode 0x40655ACF = .command (.ldrawp 0x65 0x5A 0xCF) ∧ decode 0x50000000 = .command .compt ∧
  decode 0x60000000 = .command .compp ∧ decode 0x70000000 = .command .clrerr ∧
  decode 0x80000000 = .rejected .illegalOpcode ∧ decode 0xF0000000 = .rejected .illegalOpcode ∧
  decode 0x00000001 = .rejected .rsvdField ∧ decode 0x10010000 = .rejected .rsvdField ∧
  decode 0x1F010000 = .rejected .rsvdField ∧ decode 0x20000001 = .rejected .rsvdField ∧
  decode 0x31000000 = .rejected .rsvdField ∧ decode 0x4F655AC0 = .rejected .rsvdField ∧
  decode 0x70000001 = .rejected .rsvdField

/-- Decoding a well-formed command's word gives the command back, for every command and every operand value. Derived
from R48 to R52. -/
def Obligations.DecodeOfEncode : Prop :=
  ∀ i : Instr, WellFormed i → decode (encode i) = .command i

/-- A word that decodes is the word of the command it decodes to, and that command is well formed: no bit of a word is
dropped. For B0[3:0] of LDRAWT and LDRAWP, which R49 ignores, this is the model's choice: its commands keep the whole
byte (log entry 9). Derived, for every other bit, from R48 to R52. -/
def Obligations.EncodeOfDecode : Prop :=
  ∀ (w : Word) (i : Instr), decode w = .command i → encode i = w ∧ WellFormed i

/-- A word lies in a row of the opcode map exactly when it decodes to the row's command. Derived from R51's map and
R52's decoder: the two descriptions of the encoding agree, and no two rows share a word. -/
def Obligations.DecoderAcceptsOpcodeMap : Prop :=
  ∀ (w : Word) (r : OpcodeRow), r ∈ opcodeMap →
    (w &&& r.mask = r.pattern ↔ ∃ i, decode w = .command i ∧ i.mnemonic = r.mnemonic)

/-- The words of the assembler's commands are the sums of R55's table. Derived (R55 also speaks of text). -/
def Obligations.EncodedWordsByFormula : Prop :=
  (∀ (k : Nat) (lo hi : Byte), k ≤ 15 →
    (encode (.wrcal k lo hi)).toNat = 0x10000000 + k * 2 ^ 24 + hi.toNat * 2 ^ 8 + lo.toNat) ∧
  (∀ msb lsb xlsb : Byte, (encode (.ldrawt msb lsb xlsb)).toNat =
    0x30000000 + msb.toNat * 2 ^ 16 + lsb.toNat * 2 ^ 8 + xlsb.toNat) ∧
  (∀ msb lsb xlsb : Byte, (encode (.ldrawp msb lsb xlsb)).toNat =
    0x40000000 + msb.toNat * 2 ^ 16 + lsb.toNat * 2 ^ 8 + xlsb.toNat) ∧
  encode .nop = 0x00000000 ∧ encode .commit = 0x20000000 ∧ encode .compt = 0x50000000 ∧
  encode .compp = 0x60000000 ∧ encode .clrerr = 0x70000000

/-- R52: Execute(w) checks the opcode, then the must-be-zero fields of that opcode, and dispatches the word to its
command with the operands of R50; the fields are given as numbers of the word. -/
def Obligations.ExecuteChecksThenDispatches : Prop :=
  ∀ (w : Word) (s : State),
    let op := w.toNat / 2 ^ 28
    let idx := w.toNat / 2 ^ 24 % 16
    let b2 := w.toNat / 2 ^ 16 % 256
    let b1 := w.toNat / 2 ^ 8 % 256
    let b0 := w.toNat % 256
    let body := w.toNat % 2 ^ 28
    (8 ≤ op → execute w s = .next (reject .illegalOpcode s)) ∧
    ((op = 0 ∨ op = 2 ∨ op = 5 ∨ op = 6 ∨ op = 7) → body ≠ 0 → execute w s = .next (reject .rsvdField s)) ∧
    (op = 1 → b2 ≠ 0 → execute w s = .next (reject .rsvdField s)) ∧
    ((op = 3 ∨ op = 4) → idx ≠ 0 → execute w s = .next (reject .rsvdField s)) ∧
    (op = 0 → body = 0 → execute w s = exec .nop s) ∧
    (op = 1 → b2 = 0 → execute w s = exec (.wrcal idx (BitVec.ofNat 8 b0) (BitVec.ofNat 8 b1)) s) ∧
    (op = 2 → body = 0 → execute w s = exec .commit s) ∧
    (op = 3 → idx = 0 →
      execute w s = exec (.ldrawt (BitVec.ofNat 8 b2) (BitVec.ofNat 8 b1) (BitVec.ofNat 8 b0)) s) ∧
    (op = 4 → idx = 0 →
      execute w s = exec (.ldrawp (BitVec.ofNat 8 b2) (BitVec.ofNat 8 b1) (BitVec.ofNat 8 b0)) s) ∧
    (op = 5 → body = 0 → execute w s = exec .compt s) ∧
    (op = 6 → body = 0 → execute w s = exec .compp s) ∧
    (op = 7 → body = 0 → execute w s = exec .clrerr s)

/-! ### Steps and transactions -/

/-- When the host's next transaction writes a word to CMD and the word decodes to a command, the step is that command's
execution on the state with the transaction taken from the list, answered OK. Derived: the list and the answer are the
model's (log entry 1). -/
def Obligations.StepRunsDecodedCommand : Prop :=
  ∀ (s : State) (rest : List HostTxn) (w : Word) (i : Instr),
    s.pending = .write 4 0x00 w :: rest → decode w = .command i →
    step s = answer (.plain .OK) (exec i { s with pending := rest })

/-- `withFetchWord` makes the very next step run the word it is given. Derived: the placing of a word is the model's
(log entry 4). -/
def Obligations.FetchedWordRunsNext : Prop :=
  ∀ (s : State) (w : Word) (i : Instr), decode w = .command i →
    step (s.withFetchWord 32 w.toNat) = answer (.plain .OK) (exec i s)

/-- Every command, and every transaction, finishes in one step with a next state; none can hang. A step with a
transaction waiting takes exactly that one from the list. Derived from R86 and R44: the list is the model's (log
entry 1), and so are that a step with nothing waiting answers a next state too (log entry 2) and that a reset keeps the
later transactions (log entry 3). -/
def Obligations.EveryStepYieldsNextState : Prop :=
  (∀ (i : Instr) (s : State), ∃ t, exec i s = .next t) ∧
  (∀ (w : Word) (s : State), ∃ t, execute w s = .next t) ∧
  (∀ s : State, ∃ t, step s = .next t ∧ t.pending = s.pending.tail)

/-- The state after the transactions `ts` does not depend on those that come after them; serving `ts` takes
`ts.length` steps and leaves the later ones waiting. Derived from R44: the list is the model's (log entry 1), and so is
that the transactions after a reset still wait (log entry 3). -/
def Obligations.TransactionsServedInOrder : Prop :=
  ∀ (ts us : List HostTxn) (s : State), ∃ t : State,
    Host.Core.run Sys2Proof.core ts.length { s with pending := ts } = .next t ∧ t.pending = [] ∧
    Host.Core.run Sys2Proof.core ts.length { s with pending := ts ++ us } = .next { t with pending := us }

/-- R36: a word read of a mapped offset is answered OK with the content R35's table gives, one of any other offset
ERR with 0; neither changes a register. -/
def Obligations.HostReadAnswersRegister : Prop :=
  ∀ (s : State) (rest : List HostTxn) (off : Offset), s.pending = .read 4 off :: rest →
    (off.toNat % 4 ≠ 0 ∨ 0x50 ≤ off.toNat → step s = .next { s with pending := rest, reply := some (.data .ERR 0) }) ∧
    (off.toNat % 4 = 0 → off.toNat < 0x50 → ∃ v : Word,
      step s = .next { s with pending := rest, reply := some (.data .OK v) } ∧
      (off = 0x00 → v = 0) ∧ (off = 0x04 → v = statusWord s) ∧ (off = 0x08 → v = s.fine) ∧
      (off = 0x0C → v = s.temp) ∧ (off = 0x10 → v = s.pcomp) ∧ (off = 0x14 → v = s.pout) ∧
      (off = 0x18 → v.toNat = s.rawT.toNat) ∧ (off = 0x1C → v.toNat = s.rawP.toNat) ∧
      (∀ k : Fin 12, off.toNat = 0x20 + 4 * k.val → v.toNat = s.cal[k].toNat))

/-- R38: a misaligned or reserved access, and a write to any offset but 0x00, is answered ERR and changes no state;
ERRCODE too stays. -/
def Obligations.ErrorAccessChangesNothing : Prop :=
  ∀ (s : State) (rest : List HostTxn) (off : Offset),
    (s.pending = .read 4 off :: rest → (off.toNat % 4 ≠ 0 ∨ 0x50 ≤ off.toNat) →
      step s = .next { s with pending := rest, reply := some (.data .ERR 0) }) ∧
    (∀ w : Word, s.pending = .write 4 off w :: rest → off ≠ 0x00 →
      step s = .next { s with pending := rest, reply := some (.plain .ERR) })

/-- An access of another width than one 32-bit word is answered ERR and changes no state, CMD writes among them.
Derived from R39; that this answer carries no data is the model's choice (log entry 5). -/
def Obligations.OtherWidthAccessChangesNothing : Prop :=
  ∀ (s : State) (rest : List HostTxn) (width : Nat) (off : Offset), width ≠ 4 →
    (s.pending = .read width off :: rest →
      step s = .next { s with pending := rest, reply := some (.plain .ERR) }) ∧
    (∀ w : Word, s.pending = .write width off w :: rest →
      step s = .next { s with pending := rest, reply := some (.plain .ERR) })

/-- R46: a read changes no register and a second one is answered alike; a second COMMIT after a successful one is
rejected with CAL_LOCKED; a second COMPT with the same inputs changes nothing. -/
def Obligations.ReadsIdempotentWritesNot : Prop :=
  (∀ (s t u : State) (rest : List HostTxn) (width : Nat) (off : Offset),
    s.pending = .read width off :: .read width off :: rest → step s = .next t → step t = .next u →
    t = { s with pending := t.pending, reply := t.reply } ∧ u = { t with pending := rest }) ∧
  (∀ s t : State, s.calv = false → s.smask = 0xFFF#12 → exec .commit s = .next t →
    exec .commit t = .next (reject .calLocked t)) ∧
  (∀ s t : State, TempEnabled s → exec .compt s = .next t → exec .compt t = .next t)

/-- The state after reset, and the reset event, give every register the value of R33's table. Derived from R33 and R87:
that the waiting transactions stay and no answer is held is the model's (log entries 1 and 3). -/
def Obligations.ResetGivesEveryRegisterItsValue : Prop :=
  State.reset =
    { stage := Vector.replicate 12 0, smask := 0, cal := Vector.replicate 12 0, calv := false, rawT := 0, rawP := 0,
      rawtv := false, rawpv := false, fine := 0, finev := false, temp := 0, pcomp := 0, pout := 0, pinv := false,
      presv := false, ovft := false, ovfp := false, errcode := 0, pending := [], reply := none } ∧
  statusWord State.reset = 0 ∧
  (∀ (s : State) (rest : List HostTxn), s.pending = .reset :: rest →
    step s = .next { State.reset with pending := rest })

/-- R30: STATUS as a number: each field at its bits, the reserved bits 31:24 zero. -/
def Obligations.StatusLayout : Prop :=
  ∀ s : State, (statusWord s).toNat =
    s.calv.toNat + 2 * s.rawtv.toNat + 4 * s.rawpv.toNat + 8 * s.finev.toNat + 16 * s.pinv.toNat +
      32 * s.ovft.toNat + 64 * s.ovfp.toNat + 128 * s.presv.toNat + 256 * s.errcode.toNat + 4096 * s.smask.toNat

/-! ### Rejection -/

/-- R73: the code each cause leaves in ERRCODE. -/
def Obligations.RejectionCodes : Prop :=
  ∀ s : State,
    reject .illegalOpcode s = { s with errcode := 1 } ∧ reject .rsvdField s = { s with errcode := 2 } ∧
    reject .badIndex s = { s with errcode := 3 } ∧ reject .calLocked s = { s with errcode := 4 } ∧
    reject .calIncomplete s = { s with errcode := 5 } ∧ reject .noCal s = { s with errcode := 6 } ∧
    reject .noRaw s = { s with errcode := 7 } ∧ reject .noFine s = { s with errcode := 8 }

/-- R76: of the causes that apply to a word, the first in the table's order is the one reported; and R72: the state
after is the state before, except for ERRCODE. A word no cause applies to is not rejected: it runs the command it
decodes to, which leaves ERRCODE as it was unless it is CLRERR. -/
def Obligations.FirstCauseIsReported : Prop :=
  ∀ (w : Word) (s : State),
    (∀ e, causeOf w s = some e → execute w s = .next (reject e s)) ∧
    (causeOf w s = none → ∃ i t, decode w = .command i ∧ exec i s = .next t ∧ execute w s = .next t ∧
      (i ≠ .clrerr → t.errcode = s.errcode))

/-- R72: the transaction that carried a rejected command answers OK, ERRCODE takes the code, and no other register,
flag, SMASK or CAL entry changes. -/
def Obligations.RejectedWriteChangesOnlyErrcode : Prop :=
  ∀ (s : State) (rest : List HostTxn) (w : Word) (e : Rejection),
    s.pending = .write 4 0x00 w :: rest → causeOf w s = some e →
    step s = .next
      { s with errcode := Rejection.code e, pending := rest, reply := some (.plain .OK) }

/-- R29: ERRCODE after a command: the rejected command's code, 0 after CLRERR, unchanged after any other command that
completes; 0 after reset. -/
def Obligations.ErrcodeAfterCommand : Prop :=
  (∀ (w : Word) (s t : State), execute w s = .next t →
    t.errcode =
      match causeOf w s with
      | some e => Rejection.code e
      | none => if w = 0x70000000 then 0 else s.errcode) ∧
  (∀ s : State, (resetEvent s).errcode = 0)

/-! ### The commands -/

/-- R70: NOP has no effect; a word with OP = 0 other than 0x0000_0000 is RSVD_FIELD. -/
def Obligations.NopHasNoEffect : Prop :=
  (∀ s : State, exec .nop s = .next s) ∧
  (∀ s : State, execute 0x00000000 s = .next s) ∧
  (∀ (w : Word) (s : State), w.toNat < 2 ^ 28 → w ≠ 0 → execute w s = .next { s with errcode := 2 })

/-- R71: CLRERR clears ERRCODE and changes nothing else; a word with OP = 7 and a nonzero field sets ERRCODE to 2. -/
def Obligations.ClrerrClearsOnlyErrcode : Prop :=
  (∀ s : State, exec .clrerr s = .next { s with errcode := 0 }) ∧
  (∀ s : State, execute 0x70000000 s = .next { s with errcode := 0 }) ∧
  (∀ (w : Word) (s : State), w.toNat / 2 ^ 28 = 7 → w.toNat % 2 ^ 28 ≠ 0 →
    execute w s = .next { s with errcode := 2 })

/-- R60: LDRAWT loads RAW_T with the code of its three bytes and sets RAWTV, and changes nothing else, before and after
COMMIT; the low nibble of xlsb has no effect; RSVD_FIELD when IDX is nonzero; its bytes are those at 0xFA to 0xFC. -/
def Obligations.LdrawtLoadsRawT : Prop :=
  (∀ (msb lsb xlsb : Byte) (s : State), ∃ code : Raw,
    code.toNat = msb.toNat * 2 ^ 12 + lsb.toNat * 2 ^ 4 + xlsb.toNat / 2 ^ 4 ∧
    exec (.ldrawt msb lsb xlsb) s = .next { s with rawT := code, rawtv := true }) ∧
  (∀ (w : Word) (s : State), w.toNat / 2 ^ 28 = 3 →
    (w.toNat / 2 ^ 24 % 16 ≠ 0 → execute w s = .next { s with errcode := 2 }) ∧
    (w.toNat / 2 ^ 24 % 16 = 0 →
      execute w s = .next { s with rawT := BitVec.ofNat 20 (w.toNat / 2 ^ 4), rawtv := true })) ∧
  (∀ dev : Nat → Byte, ldrawtFrom dev = .ldrawt (dev 0xFA) (dev 0xFB) (dev 0xFC))

/-- R61: LDRAWP likewise, into RAW_P and RAWPV, from the bytes at 0xF7 to 0xF9. -/
def Obligations.LdrawpLoadsRawP : Prop :=
  (∀ (msb lsb xlsb : Byte) (s : State), ∃ code : Raw,
    code.toNat = msb.toNat * 2 ^ 12 + lsb.toNat * 2 ^ 4 + xlsb.toNat / 2 ^ 4 ∧
    exec (.ldrawp msb lsb xlsb) s = .next { s with rawP := code, rawpv := true }) ∧
  (∀ (w : Word) (s : State), w.toNat / 2 ^ 28 = 4 →
    (w.toNat / 2 ^ 24 % 16 ≠ 0 → execute w s = .next { s with errcode := 2 }) ∧
    (w.toNat / 2 ^ 24 % 16 = 0 →
      execute w s = .next { s with rawP := BitVec.ofNat 20 (w.toNat / 2 ^ 4), rawpv := true })) ∧
  (∀ dev : Nat → Byte, ldrawpFrom dev = .ldrawp (dev 0xF7) (dev 0xF8) (dev 0xF9))

/-- R58: WRCAL with an index below 12, before COMMIT, writes that staged entry and sets its bit of SMASK, and changes
nothing else, CAL not either; otherwise BAD_INDEX, then CAL_LOCKED; RSVD_FIELD, before both, when B2 is nonzero. -/
def Obligations.WrcalStagesOneEntry : Prop :=
  (∀ (k : Nat) (lo hi : Byte) (s : State) (hk : k < 12), s.calv = false → ∃ (v : Half) (m : BitVec 12),
    v.toNat = hi.toNat * 2 ^ 8 + lo.toNat ∧ (∀ j, j < 12 → m.getLsbD j = (decide (j = k) || s.smask.getLsbD j)) ∧
    exec (.wrcal k lo hi) s = .next { s with stage := s.stage.set k v hk, smask := m }) ∧
  (∀ (k : Nat) (lo hi : Byte) (s : State), 12 ≤ k → exec (.wrcal k lo hi) s = .next { s with errcode := 3 }) ∧
  (∀ (k : Nat) (lo hi : Byte) (s : State), k < 12 → s.calv = true →
    exec (.wrcal k lo hi) s = .next { s with errcode := 4 }) ∧
  (∀ (w : Word) (s : State), w.toNat / 2 ^ 28 = 1 →
    (w.toNat / 2 ^ 16 % 256 ≠ 0 → execute w s = .next { s with errcode := 2 }) ∧
    (w.toNat / 2 ^ 16 % 256 = 0 →
      execute w s = exec (.wrcal (w.toNat / 2 ^ 24 % 16) (BitVec.ofNat 8 w.toNat)
        (BitVec.ofNat 8 (w.toNat / 2 ^ 8))) s))

/-- R59: COMMIT with a full SMASK makes all twelve staged entries active at once and sets CALV, and changes nothing
else, SMASK not either; otherwise CAL_LOCKED, then CAL_INCOMPLETE; RSVD_FIELD, before both, for a nonzero field. -/
def Obligations.CommitActivatesStagedSet : Prop :=
  (∀ s : State, s.calv = false → s.smask = 0xFFF#12 →
    exec .commit s = .next { s with cal := s.stage, calv := true }) ∧
  (∀ s : State, s.calv = true → exec .commit s = .next { s with errcode := 4 }) ∧
  (∀ s : State, s.calv = false → s.smask ≠ 0xFFF#12 → exec .commit s = .next { s with errcode := 5 }) ∧
  (∀ s : State, execute 0x20000000 s = exec .commit s) ∧
  (∀ (w : Word) (s : State), w.toNat / 2 ^ 28 = 2 → w.toNat % 2 ^ 28 ≠ 0 →
    execute w s = .next { s with errcode := 2 })

/-- R64: COMPT with CALV and RAWTV set writes FINE, TEMP and OVFT with the values of CompT and sets FINEV, and changes
nothing else; otherwise NO_CAL, then NO_RAW; RSVD_FIELD, before both, for a nonzero field. -/
def Obligations.ComptWritesTemperature : Prop :=
  (∀ s : State, s.calv = true → s.rawtv = true →
    exec .compt s = .next
      { s with fine := BitVec.ofInt 32 (compT s.rawT s.cal).fine, temp := BitVec.ofInt 32 (compT s.rawT s.cal).temp,
               ovft := (compT s.rawT s.cal).ovf, finev := true }) ∧
  (∀ s : State, s.calv = false → exec .compt s = .next { s with errcode := 6 }) ∧
  (∀ s : State, s.calv = true → s.rawtv = false → exec .compt s = .next { s with errcode := 7 }) ∧
  (∀ s : State, execute 0x50000000 s = exec .compt s) ∧
  (∀ (w : Word) (s : State), w.toNat / 2 ^ 28 = 5 → w.toNat % 2 ^ 28 ≠ 0 →
    execute w s = .next { s with errcode := 2 })

/-- R65: COMPP with CALV, RAWPV and FINEV set writes PCOMP, POUT, PINV and OVFP with the values of CompP and sets PRESV,
and changes nothing else; otherwise NO_CAL, then NO_RAW, then NO_FINE; RSVD_FIELD, before them, for a nonzero field. -/
def Obligations.ComppWritesPressure : Prop :=
  (∀ s : State, s.calv = true → s.rawpv = true → s.finev = true →
    exec .compp s = .next
      { s with pcomp := BitVec.ofInt 32 (compP s.rawP s.fine.toInt s.cal).pcomp,
               pout := BitVec.ofInt 32 (compP s.rawP s.fine.toInt s.cal).pout,
               pinv := (compP s.rawP s.fine.toInt s.cal).inv, ovfp := (compP s.rawP s.fine.toInt s.cal).ovf,
               presv := true }) ∧
  (∀ s : State, s.calv = false → exec .compp s = .next { s with errcode := 6 }) ∧
  (∀ s : State, s.calv = true → s.rawpv = false → exec .compp s = .next { s with errcode := 7 }) ∧
  (∀ s : State, s.calv = true → s.rawpv = true → s.finev = false →
    exec .compp s = .next { s with errcode := 8 }) ∧
  (∀ s : State, execute 0x60000000 s = exec .compp s) ∧
  (∀ (w : Word) (s : State), w.toNat / 2 ^ 28 = 6 → w.toNat % 2 ^ 28 ≠ 0 →
    execute w s = .next { s with errcode := 2 })

/-! ### The compensation functions -/

/-- R17: T1 and P1 are read unsigned, T2, T3 and P2 to P9 signed, each from its position of the calibration file; every
value lies in [-32768, 65535]. -/
def Obligations.CoefficientReadings : Prop :=
  ∀ cal : CalFile,
    let u := fun b : Half => (b.toNat : Int)
    let g := fun b : Half => if b.toNat < 32768 then (b.toNat : Int) else (b.toNat : Int) - 65536
    [coefT1 cal, coefT2 cal, coefT3 cal, coefP1 cal, coefP2 cal, coefP3 cal, coefP4 cal, coefP5 cal, coefP6 cal,
      coefP7 cal, coefP8 cal, coefP9 cal] =
    [u cal[0], g cal[1], g cal[2], u cal[3], g cal[4], g cal[5], g cal[6], g cal[7], g cal[8], g cal[9], g cal[10],
      g cal[11]] ∧
    ∀ c ∈ [coefT1 cal, coefT2 cal, coefT3 cal, coefP1 cal, coefP2 cal, coefP3 cal, coefP4 cal, coefP5 cal,
      coefP6 cal, coefP7 cal, coefP8 cal, coefP9 cal], -32768 ≤ c ∧ c ≤ 65535

/-- FINE and TEMP after COMPT are those of the source's listing run on 32-bit two's-complement words. Derived from R62
and R66. -/
def Obligations.TemperatureMatchesListing : Prop :=
  ∀ s : State, TempEnabled s → ∃ t, exec .compt s = .next t ∧ (t.fine, t.temp) = listingTemp s.rawT s.cal

/-- The pressure results after COMPP are those of the source's listing run on 32-bit words: its sentinel, or its `p`
in PCOMP and `p * 1000` in POUT. Derived from R63 and R66. -/
def Obligations.PressureMatchesListing : Prop :=
  ∀ s : State, PressEnabled s → ∃ t, exec .compp s = .next t ∧
    (listingPress s.rawP s.fine s.cal = none → t.pinv = true ∧ t.pcomp = 0 ∧ t.pout = 0) ∧
    (∀ p, listingPress s.rawP s.fine s.cal = some p → t.pinv = false ∧ t.pcomp = p ∧ t.pout = p * 1000)

/-- With OVFT = 0 after COMPT, FINE and TEMP are the exact integers of the listing, with no narrowing at all. Derived
from R8, R28 and R62. -/
def Obligations.TemperatureExactWithoutOverflow : Prop :=
  ∀ s t : State, TempEnabled s → exec .compt s = .next t → t.ovft = false →
    let r : Int := s.rawT.toNat
    let T1 : Int := s.cal[0].toNat
    let fine := (r / 8 - T1 * 2) * s.cal[1].toInt / 2048 +
      (r / 16 - T1) * (r / 16 - T1) / 4096 * s.cal[2].toInt / 16384
    t.fine.toInt = fine ∧ t.temp.toInt = (fine * 5 + 128) / 256

/-- OVFT after COMPT is 1 exactly when the exact result of step d, of step f or of step h leaves the signed range. No
other checked step of CompT can leave it, whatever d, f and h do: not b, c, e, fine, i nor j. R62's remark names step
i, and its pseudocode keeps it in range (log entry 7). Derived from R8, R28 and R62's pseudocode. -/
def Obligations.TemperatureOverflowSteps : Prop :=
  ∀ s t : State, TempEnabled s → exec .compt s = .next t →
    let r : Int := s.rawT.toNat
    let T1 : Int := s.cal[0].toNat
    let d := (r / 8 - T1 * 2) * s.cal[1].toInt
    let f := (r / 16 - T1) * (r / 16 - T1)
    let h := s32 f / 4096 * s.cal[2].toInt
    let leaves := fun v : Int => v < -2147483648 ∨ 2147483647 < v
    (t.ovft = true ↔ leaves d ∨ leaves f ∨ leaves h) ∧
    ¬ leaves (T1 * 2) ∧ ¬ leaves (r / 8 - T1 * 2) ∧ ¬ leaves (r / 16 - T1) ∧
    ¬ leaves (s32 d / 2048 + s32 h / 16384) ∧ t.fine.toInt = s32 d / 2048 + s32 h / 16384 ∧
    ¬ leaves (t.fine.toInt * 5) ∧ ¬ leaves (t.fine.toInt * 5 + 128)

/-- After COMPT, TEMP is FINE * 5 / 256 rounded to nearest, halves up, whatever overflowed before. Derived from R62's
rounding note. -/
def Obligations.TemperatureRoundsToNearest : Prop :=
  ∀ s t : State, TempEnabled s → exec .compt s = .next t →
    256 * t.temp.toInt ≤ 5 * t.fine.toInt + 128 ∧ 5 * t.fine.toInt + 128 < 256 * t.temp.toInt + 256

/-- With OVFP = 0 after COMPP, PCOMP is that of the listing with its signed steps computed on exact integers and only
its unsigned steps modulo 2^32. Derived from R8, R28 and R63. -/
def Obligations.PressureExactWithoutOverflow : Prop :=
  ∀ s t : State, PressEnabled s → exec .compp s = .next t → t.ovfp = false →
    let raw : Int := s.rawP.toNat
    let P1 : Int := s.cal[3].toNat
    let a := s.fine.toInt / 2 - 64000
    let v2 := (a / 4 * (a / 4) / 2048 * s.cal[8].toInt + a * s.cal[7].toInt * 2) / 4 + s.cal[6].toInt * 65536
    let w := (s.cal[5].toInt * (a / 4 * (a / 4) / 8192) / 8 + s.cal[4].toInt * a / 2) / 262144
    let d := (32768 + w) * P1 / 32768
    let p := (1048576 - raw - v2 / 4096) * 3125 % 4294967296
    let q := if p < 2147483648 then p * 2 / d else p / d * 2 % 4294967296
    let e := (s.cal[11].toInt * (q / 8 * (q / 8) % 4294967296 / 8192) / 4096 + q / 4 * s.cal[10].toInt / 8192 +
      s.cal[9].toInt) / 16
    (d = 0 → t.pinv = true ∧ t.pcomp.toNat = 0) ∧
    (d ≠ 0 → t.pinv = false ∧ 0 < d ∧ (t.pcomp.toNat : Int) = (q + e) % 4294967296)

/-- OVFP after COMPP is 1 exactly when the exact result of a checked signed step leaves the signed range: one of steps 1
to 6, or, past the guard, one of steps 10 to 12. On the sentinel only steps 1 to 6 count, and an unsigned wrap never
does. The lists hold the exact results in the order of the steps, each computed from the narrowed results before it.
Derived from R8, R28 and R63. -/
def Obligations.PressureOverflowSteps : Prop :=
  ∀ s t : State, PressEnabled s → exec .compp s = .next t →
    let raw : Int := s.rawP.toNat
    let P1 : Int := s.cal[3].toNat
    let v1 := s.fine.toInt / 2 - 64000
    let q := s32 v1 / 4
    let v2a := s32 (q * q) / 2048 * s.cal[8].toInt
    let v1P5 := s32 v1 * s.cal[7].toInt
    let v2b := s32 v2a + s32 (s32 v1P5 * 2)
    let v2c := s32 v2b / 4 + s32 (s.cal[6].toInt * 65536)
    let x := s.cal[5].toInt * (s32 (q * q) / 8192)
    let y := s.cal[4].toInt * s32 v1
    let xy := s32 x / 8 + s32 y / 2
    let m := 32768 + s32 xy / 262144
    let mP1 := s32 m * P1
    let d := s32 mP1 / 32768
    let p := (1048576 - raw - s32 v2c / 4096) * 3125 % 4294967296
    let n := if p < 2147483648 then p * 2 / (d % 4294967296) else p / (d % 4294967296) * 2 % 4294967296
    let p9t := s.cal[11].toInt * (n / 8 * (n / 8) % 4294967296 / 8192)
    let pp8 := n / 4 * s.cal[10].toInt
    let sum := s32 p9t / 4096 + s32 pp8 / 8192
    let leaves := fun v : Int => v < -2147483648 ∨ 2147483647 < v
    (t.ovfp = true ↔
      (∃ v ∈ [v1, q * q, v2a, v1P5, s32 v1P5 * 2, v2b, s.cal[6].toInt * 65536, v2c, x, y, xy, m, mP1], leaves v) ∨
      (d ≠ 0 ∧ ∃ v ∈ [p9t, pp8, sum, s32 sum + s.cal[9].toInt], leaves v))

/-- The spec's own inferences of R69, "[derived: from rule R63 steps 5 to 7]" and "[derived: from rule R63 step 6 and
00_scope.md rule R8]": the range of v1 after step 5; when the denominator is 0; when it is negative, and that then
the overflow indicator is set. -/
def Obligations.DenominatorZeroAndSign : Prop :=
  ∀ (fine : Int) (cal : CalFile),
    let q := pressPoly fine cal
    (-8192 ≤ q.v1Step5 ∧ q.v1Step5 ≤ 8191) ∧
    (q.v1Step6 = 0 ↔ coefP1 cal = 0 ∨ (coefP1 cal = 1 ∧ q.v1Step5 < 0)) ∧
    (q.v1Step6 < 0 ↔ 2147483647 < (32768 + q.v1Step5) * coefP1 cal) ∧
    (q.v1Step6 < 0 → q.ovf = true)

/-- Step 9's remarks: for a nonzero signed 32-bit v1 the divisor is at least 1; a negative v1 gives a quotient of 0 or
1 before the doubling; the doubling before the division cannot leave 32 bits; the doubling after it can only for the
divisor 1. Derived from R63, R67 and R68. -/
def Obligations.GuardedDivision : Prop :=
  ∀ p v1 : Int, 0 ≤ p → p ≤ 4294967295 → -2147483648 ≤ v1 → v1 ≤ 2147483647 → v1 ≠ 0 →
    1 ≤ u32 v1 ∧ 0 ≤ pressStep9 p v1 ∧ pressStep9 p v1 ≤ 4294967295 ∧
    (p < 2147483648 → u32 (shl p 1) = 2 * p ∧ pressStep9 p v1 = 2 * p / u32 v1 ∧
      (v1 < 0 → pressStep9 p v1 ≤ 1)) ∧
    (2147483648 ≤ p → (v1 < 0 → p / u32 v1 ≤ 1) ∧ (2147483648 ≤ p / u32 v1 → u32 v1 = 1))

/-- Steps 10 and 11: `t` lies in [0, 2^19 - 1] and `p >> 2` in [0, 2^30 - 1], so both read the same signed and
unsigned. Derived from R63's step comments. -/
def Obligations.CorrectionOperandsInRange : Prop :=
  ∀ (p : Int) (cal : CalFile), 0 ≤ p → p ≤ 4294967295 →
    0 ≤ (pressCorr p cal).t ∧ (pressCorr p cal).t ≤ 524287 ∧ 0 ≤ lsr p 2 ∧ lsr p 2 ≤ 1073741823

/-- COMPT's results are a function of RAW_T and CAL[0..2]: two states alike in these get alike FINE, TEMP and OVFT,
whatever else differs. Derived from R62's determinism note (95_test_vectors.md L1-4). -/
def Obligations.TemperatureDependsOnlyOnInputs : Prop :=
  ∀ s s' t t' : State, TempEnabled s → TempEnabled s' → s.rawT = s'.rawT → s.cal[0] = s'.cal[0] →
    s.cal[1] = s'.cal[1] → s.cal[2] = s'.cal[2] → exec .compt s = .next t → exec .compt s' = .next t' →
    t.fine = t'.fine ∧ t.temp = t'.temp ∧ t.ovft = t'.ovft

/-- COMPP's results are a function of RAW_P, FINE and CAL[3..11]. Derived from R63's determinism note. -/
def Obligations.PressureDependsOnlyOnInputs : Prop :=
  ∀ s s' t t' : State, PressEnabled s → PressEnabled s' → s.rawP = s'.rawP → s.fine = s'.fine →
    (∀ k : Fin 12, 3 ≤ k.val → s.cal[k] = s'.cal[k]) → exec .compp s = .next t → exec .compp s' = .next t' →
    t.pcomp = t'.pcomp ∧ t.pout = t'.pout ∧ t.pinv = t'.pinv ∧ t.ovfp = t'.ovfp

/-- R78: when the denominator of step 7 is zero, COMPP completes with PCOMP = 0, POUT = 0, PINV = 1 and PRESV = 1 and
ERRCODE is not written; when it is not zero, PINV = 0 whatever PCOMP is, so a computed 0 is told from the sentinel. -/
def Obligations.InvalidReadingIsResult : Prop :=
  ∀ s : State, PressEnabled s →
    ∃ t, exec .compp s = .next t ∧ t.presv = true ∧ t.errcode = s.errcode ∧
      ((pressPoly s.fine.toInt s.cal).v1Step6 = 0 → t.pcomp = 0 ∧ t.pout = 0 ∧ t.pinv = true) ∧
      ((pressPoly s.fine.toInt s.cal).v1Step6 ≠ 0 → t.pinv = false)

/-- R25: COMPP writes POUT with PCOMP * 1000 modulo 2^32, and with 0 on the sentinel. -/
def Obligations.PoutIsScaledPcomp : Prop :=
  ∀ s t : State, PressEnabled s → exec .compp s = .next t →
    t.pout.toNat = t.pcomp.toNat * 1000 % 2 ^ 32 ∧ (t.pinv = true → t.pout = 0)

/-! ### The whole machine -/

/-- The invariant holds after reset. Derived from R33. -/
def Obligations.ResetMeetsInv : Prop := State.reset.Inv

/-- Every step keeps the invariant, from every state that meets it. Derived from R14 to R29, R59, R62 to R65 and R73. -/
def Obligations.StepKeepsInv : Prop :=
  ∀ s t : State, s.Inv → step s = .next t → t.Inv

/-- After a successful COMMIT neither CAL nor STAGE, SMASK and CALV change, in any number of steps, until the host
applies reset. Derived from R16, R18 and R59. -/
def Obligations.CommittedSetIsImmutable : Prop :=
  ∀ (n : Nat) (s t : State), s.calv = true → HostTxn.reset ∉ s.pending →
    Host.Core.run Sys2Proof.core n s = .next t →
    t.calv = true ∧ t.cal = s.cal ∧ t.stage = s.stage ∧ t.smask = s.smask

/-- In any number of steps without a reset, no valid flag and no bit of SMASK goes back to 0. Derived from "Only reset
clears" of R15, R18, R20, R22 and R27. -/
def Obligations.OnlyResetClearsValidFlags : Prop :=
  ∀ (n : Nat) (s t : State), HostTxn.reset ∉ s.pending → Host.Core.run Sys2Proof.core n s = .next t →
    (s.calv = true → t.calv = true) ∧ (s.rawtv = true → t.rawtv = true) ∧ (s.rawpv = true → t.rawpv = true) ∧
    (s.finev = true → t.finev = true) ∧ (s.presv = true → t.presv = true) ∧
    (∀ k, s.smask.getLsbD k = true → t.smask.getLsbD k = true)

/-- Who writes what (the table of R13): a register keeps its value unless the command that runs is the one that writes
it; ERRCODE changes by CLRERR, or by a rejection, which changes nothing else. COMPT and COMPP never overwrite each
other's results (R92). Derived; that no command changes the model's own `pending` and `reply` is the model's choice
(log entry 1). -/
def Obligations.OnlyTheirCommandsWriteRegisters : Prop :=
  ∀ (i : Instr) (s t : State), exec i s = .next t →
    ((∀ k lo hi, i ≠ .wrcal k lo hi) → t.stage = s.stage ∧ t.smask = s.smask) ∧
    (i ≠ .commit → t.cal = s.cal ∧ t.calv = s.calv) ∧
    ((∀ a b c, i ≠ .ldrawt a b c) → t.rawT = s.rawT ∧ t.rawtv = s.rawtv) ∧
    ((∀ a b c, i ≠ .ldrawp a b c) → t.rawP = s.rawP ∧ t.rawpv = s.rawpv) ∧
    (i ≠ .compt → t.fine = s.fine ∧ t.finev = s.finev ∧ t.temp = s.temp ∧ t.ovft = s.ovft) ∧
    (i ≠ .compp → t.pcomp = s.pcomp ∧ t.pout = s.pout ∧ t.pinv = s.pinv ∧ t.presv = s.presv ∧ t.ovfp = s.ovfp) ∧
    (i ≠ .clrerr → t.errcode = s.errcode ∨ ∃ e, t = reject e s) ∧
    t.pending = s.pending ∧ t.reply = s.reply

/-- The calibration round trip of 95_test_vectors.md L1-5: whatever bytes the sensor holds, after the twelve WRCALs and
COMMIT of R89 the window reads, for every k, the pair at 0x88 + 2k and 0x89 + 2k, low byte first (R40). Derived. -/
def Obligations.CalibrationBytesRoundTrip : Prop :=
  ∀ (dev : Nat → Byte) (s : State), s.calv = false →
    ∃ t, execAll (calLoad dev) s = .next t ∧ t.calv = true ∧
      ∀ k : Fin 12, hostRead (BitVec.ofNat 8 (0x20 + 4 * k.val)) t =
        (.OK, BitVec.ofNat 32 ((dev (0x89 + 2 * k.val)).toNat * 2 ^ 8 + (dev (0x88 + 2 * k.val)).toNat))

/-- CALSET before COMMIT makes its twelve coefficients the active set, each as its 16-bit two's-complement pattern.
Derived from R56. -/
def Obligations.CalsetActivatesCoefficients : Prop :=
  ∀ (coefs : Vector Int 12) (s : State), s.calv = false →
    ∃ t, execAll (Pseudo.calset coefs).expand s = .next t ∧ t.calv = true ∧
      ∀ k : Fin 12, (t.cal[k].toNat : Int) = coefs[k] % 65536

/-- SETRAWT and SETRAWP load exactly the 20-bit code they are given. Derived from R56. -/
def Obligations.SetrawLoadsItsCode : Prop :=
  ∀ (code : Raw) (s : State),
    execAll (Pseudo.setrawt code).expand s = .next { s with rawT := code, rawtv := true } ∧
    execAll (Pseudo.setrawp code).expand s = .next { s with rawP := code, rawpv := true }

/-- MEASURE needs no earlier COMPT: with a calibration and both raw codes it completes, and its pressure is compensated
with the temperature it has just computed. Derived from R56 and R91. -/
def Obligations.MeasureUsesItsOwnTemperature : Prop :=
  ∀ s : State, s.calv = true → s.rawtv = true → s.rawpv = true →
    ∃ t, execAll Pseudo.measure.expand s = .next t ∧ t.errcode = s.errcode ∧ t.finev = true ∧ t.presv = true ∧
      t.fine.toInt = (compT s.rawT s.cal).fine ∧
      (t.pcomp.toNat : Int) = (compP s.rawP (compT s.rawT s.cal).fine s.cal).pcomp

/-- The stale-FINE hazard: LDRAWT leaves FINE and TEMP, and a COMPP after it gives what it would have given before it.
Derived from R91. -/
def Obligations.PressureIgnoresReloadedRawT : Prop :=
  ∀ (msb lsb xlsb : Byte) (s : State),
    (∀ t, exec (.ldrawt msb lsb xlsb) s = .next t → t.fine = s.fine ∧ t.temp = s.temp) ∧
    andThen (exec (.ldrawt msb lsb xlsb) s) (exec .compp) =
      andThen (exec .compp s) (exec (.ldrawt msb lsb xlsb))
end

