-- ==== Sys2Proof/Laws/State.lean ====
section
/-! SUPPORT. Laws/State: what each named update leaves in each field, one lemma per field per update, so that no proof
unfolds a record update. Each is true by rfl; it is written (rfl) so that simp rewrites with it and does not leave the
kernel to compare two whole states, which would evaluate the compensation functions. -/

namespace Sys2Proof.Machine

variable (s : State)

/-! `reject` -/

@[simp] theorem reject_stage (e : Rejection) : (reject e s).stage = s.stage := (rfl)
@[simp] theorem reject_smask (e : Rejection) : (reject e s).smask = s.smask := (rfl)
@[simp] theorem reject_cal (e : Rejection) : (reject e s).cal = s.cal := (rfl)
@[simp] theorem reject_calv (e : Rejection) : (reject e s).calv = s.calv := (rfl)
@[simp] theorem reject_rawT (e : Rejection) : (reject e s).rawT = s.rawT := (rfl)
@[simp] theorem reject_rawP (e : Rejection) : (reject e s).rawP = s.rawP := (rfl)
@[simp] theorem reject_rawtv (e : Rejection) : (reject e s).rawtv = s.rawtv := (rfl)
@[simp] theorem reject_rawpv (e : Rejection) : (reject e s).rawpv = s.rawpv := (rfl)
@[simp] theorem reject_fine (e : Rejection) : (reject e s).fine = s.fine := (rfl)
@[simp] theorem reject_finev (e : Rejection) : (reject e s).finev = s.finev := (rfl)
@[simp] theorem reject_temp (e : Rejection) : (reject e s).temp = s.temp := (rfl)
@[simp] theorem reject_pcomp (e : Rejection) : (reject e s).pcomp = s.pcomp := (rfl)
@[simp] theorem reject_pout (e : Rejection) : (reject e s).pout = s.pout := (rfl)
@[simp] theorem reject_pinv (e : Rejection) : (reject e s).pinv = s.pinv := (rfl)
@[simp] theorem reject_presv (e : Rejection) : (reject e s).presv = s.presv := (rfl)
@[simp] theorem reject_ovft (e : Rejection) : (reject e s).ovft = s.ovft := (rfl)
@[simp] theorem reject_ovfp (e : Rejection) : (reject e s).ovfp = s.ovfp := (rfl)
@[simp] theorem reject_errcode (e : Rejection) : (reject e s).errcode = Rejection.code e := (rfl)
@[simp] theorem reject_pending (e : Rejection) : (reject e s).pending = s.pending := (rfl)
@[simp] theorem reject_reply (e : Rejection) : (reject e s).reply = s.reply := (rfl)

/-! `clearError` -/

@[simp] theorem clearError_stage : (clearError s).stage = s.stage := (rfl)
@[simp] theorem clearError_smask : (clearError s).smask = s.smask := (rfl)
@[simp] theorem clearError_cal : (clearError s).cal = s.cal := (rfl)
@[simp] theorem clearError_calv : (clearError s).calv = s.calv := (rfl)
@[simp] theorem clearError_rawT : (clearError s).rawT = s.rawT := (rfl)
@[simp] theorem clearError_rawP : (clearError s).rawP = s.rawP := (rfl)
@[simp] theorem clearError_rawtv : (clearError s).rawtv = s.rawtv := (rfl)
@[simp] theorem clearError_rawpv : (clearError s).rawpv = s.rawpv := (rfl)
@[simp] theorem clearError_fine : (clearError s).fine = s.fine := (rfl)
@[simp] theorem clearError_finev : (clearError s).finev = s.finev := (rfl)
@[simp] theorem clearError_temp : (clearError s).temp = s.temp := (rfl)
@[simp] theorem clearError_pcomp : (clearError s).pcomp = s.pcomp := (rfl)
@[simp] theorem clearError_pout : (clearError s).pout = s.pout := (rfl)
@[simp] theorem clearError_pinv : (clearError s).pinv = s.pinv := (rfl)
@[simp] theorem clearError_presv : (clearError s).presv = s.presv := (rfl)
@[simp] theorem clearError_ovft : (clearError s).ovft = s.ovft := (rfl)
@[simp] theorem clearError_ovfp : (clearError s).ovfp = s.ovfp := (rfl)
@[simp] theorem clearError_errcode : (clearError s).errcode = 0 := (rfl)
@[simp] theorem clearError_pending : (clearError s).pending = s.pending := (rfl)
@[simp] theorem clearError_reply : (clearError s).reply = s.reply := (rfl)

/-! `stageEntry` -/

@[simp] theorem stageEntry_stage (k : Nat) (v : Half) : (stageEntry k v s).stage = s.stage.setIfInBounds k v := (rfl)
@[simp] theorem stageEntry_smask (k : Nat) (v : Half) : (stageEntry k v s).smask = s.smask ||| (1#12 <<< k) := (rfl)
@[simp] theorem stageEntry_cal (k : Nat) (v : Half) : (stageEntry k v s).cal = s.cal := (rfl)
@[simp] theorem stageEntry_calv (k : Nat) (v : Half) : (stageEntry k v s).calv = s.calv := (rfl)
@[simp] theorem stageEntry_rawT (k : Nat) (v : Half) : (stageEntry k v s).rawT = s.rawT := (rfl)
@[simp] theorem stageEntry_rawP (k : Nat) (v : Half) : (stageEntry k v s).rawP = s.rawP := (rfl)
@[simp] theorem stageEntry_rawtv (k : Nat) (v : Half) : (stageEntry k v s).rawtv = s.rawtv := (rfl)
@[simp] theorem stageEntry_rawpv (k : Nat) (v : Half) : (stageEntry k v s).rawpv = s.rawpv := (rfl)
@[simp] theorem stageEntry_fine (k : Nat) (v : Half) : (stageEntry k v s).fine = s.fine := (rfl)
@[simp] theorem stageEntry_finev (k : Nat) (v : Half) : (stageEntry k v s).finev = s.finev := (rfl)
@[simp] theorem stageEntry_temp (k : Nat) (v : Half) : (stageEntry k v s).temp = s.temp := (rfl)
@[simp] theorem stageEntry_pcomp (k : Nat) (v : Half) : (stageEntry k v s).pcomp = s.pcomp := (rfl)
@[simp] theorem stageEntry_pout (k : Nat) (v : Half) : (stageEntry k v s).pout = s.pout := (rfl)
@[simp] theorem stageEntry_pinv (k : Nat) (v : Half) : (stageEntry k v s).pinv = s.pinv := (rfl)
@[simp] theorem stageEntry_presv (k : Nat) (v : Half) : (stageEntry k v s).presv = s.presv := (rfl)
@[simp] theorem stageEntry_ovft (k : Nat) (v : Half) : (stageEntry k v s).ovft = s.ovft := (rfl)
@[simp] theorem stageEntry_ovfp (k : Nat) (v : Half) : (stageEntry k v s).ovfp = s.ovfp := (rfl)
@[simp] theorem stageEntry_errcode (k : Nat) (v : Half) : (stageEntry k v s).errcode = s.errcode := (rfl)
@[simp] theorem stageEntry_pending (k : Nat) (v : Half) : (stageEntry k v s).pending = s.pending := (rfl)
@[simp] theorem stageEntry_reply (k : Nat) (v : Half) : (stageEntry k v s).reply = s.reply := (rfl)

/-! `activateStage` -/

@[simp] theorem activateStage_stage : (activateStage s).stage = s.stage := (rfl)
@[simp] theorem activateStage_smask : (activateStage s).smask = s.smask := (rfl)
@[simp] theorem activateStage_cal : (activateStage s).cal = s.stage := (rfl)
@[simp] theorem activateStage_calv : (activateStage s).calv = true := (rfl)
@[simp] theorem activateStage_rawT : (activateStage s).rawT = s.rawT := (rfl)
@[simp] theorem activateStage_rawP : (activateStage s).rawP = s.rawP := (rfl)
@[simp] theorem activateStage_rawtv : (activateStage s).rawtv = s.rawtv := (rfl)
@[simp] theorem activateStage_rawpv : (activateStage s).rawpv = s.rawpv := (rfl)
@[simp] theorem activateStage_fine : (activateStage s).fine = s.fine := (rfl)
@[simp] theorem activateStage_finev : (activateStage s).finev = s.finev := (rfl)
@[simp] theorem activateStage_temp : (activateStage s).temp = s.temp := (rfl)
@[simp] theorem activateStage_pcomp : (activateStage s).pcomp = s.pcomp := (rfl)
@[simp] theorem activateStage_pout : (activateStage s).pout = s.pout := (rfl)
@[simp] theorem activateStage_pinv : (activateStage s).pinv = s.pinv := (rfl)
@[simp] theorem activateStage_presv : (activateStage s).presv = s.presv := (rfl)
@[simp] theorem activateStage_ovft : (activateStage s).ovft = s.ovft := (rfl)
@[simp] theorem activateStage_ovfp : (activateStage s).ovfp = s.ovfp := (rfl)
@[simp] theorem activateStage_errcode : (activateStage s).errcode = s.errcode := (rfl)
@[simp] theorem activateStage_pending : (activateStage s).pending = s.pending := (rfl)
@[simp] theorem activateStage_reply : (activateStage s).reply = s.reply := (rfl)

/-! `loadRawT` -/

@[simp] theorem loadRawT_stage (code : Raw) : (loadRawT code s).stage = s.stage := (rfl)
@[simp] theorem loadRawT_smask (code : Raw) : (loadRawT code s).smask = s.smask := (rfl)
@[simp] theorem loadRawT_cal (code : Raw) : (loadRawT code s).cal = s.cal := (rfl)
@[simp] theorem loadRawT_calv (code : Raw) : (loadRawT code s).calv = s.calv := (rfl)
@[simp] theorem loadRawT_rawT (code : Raw) : (loadRawT code s).rawT = code := (rfl)
@[simp] theorem loadRawT_rawP (code : Raw) : (loadRawT code s).rawP = s.rawP := (rfl)
@[simp] theorem loadRawT_rawtv (code : Raw) : (loadRawT code s).rawtv = true := (rfl)
@[simp] theorem loadRawT_rawpv (code : Raw) : (loadRawT code s).rawpv = s.rawpv := (rfl)
@[simp] theorem loadRawT_fine (code : Raw) : (loadRawT code s).fine = s.fine := (rfl)
@[simp] theorem loadRawT_finev (code : Raw) : (loadRawT code s).finev = s.finev := (rfl)
@[simp] theorem loadRawT_temp (code : Raw) : (loadRawT code s).temp = s.temp := (rfl)
@[simp] theorem loadRawT_pcomp (code : Raw) : (loadRawT code s).pcomp = s.pcomp := (rfl)
@[simp] theorem loadRawT_pout (code : Raw) : (loadRawT code s).pout = s.pout := (rfl)
@[simp] theorem loadRawT_pinv (code : Raw) : (loadRawT code s).pinv = s.pinv := (rfl)
@[simp] theorem loadRawT_presv (code : Raw) : (loadRawT code s).presv = s.presv := (rfl)
@[simp] theorem loadRawT_ovft (code : Raw) : (loadRawT code s).ovft = s.ovft := (rfl)
@[simp] theorem loadRawT_ovfp (code : Raw) : (loadRawT code s).ovfp = s.ovfp := (rfl)
@[simp] theorem loadRawT_errcode (code : Raw) : (loadRawT code s).errcode = s.errcode := (rfl)
@[simp] theorem loadRawT_pending (code : Raw) : (loadRawT code s).pending = s.pending := (rfl)
@[simp] theorem loadRawT_reply (code : Raw) : (loadRawT code s).reply = s.reply := (rfl)

/-! `loadRawP` -/

@[simp] theorem loadRawP_stage (code : Raw) : (loadRawP code s).stage = s.stage := (rfl)
@[simp] theorem loadRawP_smask (code : Raw) : (loadRawP code s).smask = s.smask := (rfl)
@[simp] theorem loadRawP_cal (code : Raw) : (loadRawP code s).cal = s.cal := (rfl)
@[simp] theorem loadRawP_calv (code : Raw) : (loadRawP code s).calv = s.calv := (rfl)
@[simp] theorem loadRawP_rawT (code : Raw) : (loadRawP code s).rawT = s.rawT := (rfl)
@[simp] theorem loadRawP_rawP (code : Raw) : (loadRawP code s).rawP = code := (rfl)
@[simp] theorem loadRawP_rawtv (code : Raw) : (loadRawP code s).rawtv = s.rawtv := (rfl)
@[simp] theorem loadRawP_rawpv (code : Raw) : (loadRawP code s).rawpv = true := (rfl)
@[simp] theorem loadRawP_fine (code : Raw) : (loadRawP code s).fine = s.fine := (rfl)
@[simp] theorem loadRawP_finev (code : Raw) : (loadRawP code s).finev = s.finev := (rfl)
@[simp] theorem loadRawP_temp (code : Raw) : (loadRawP code s).temp = s.temp := (rfl)
@[simp] theorem loadRawP_pcomp (code : Raw) : (loadRawP code s).pcomp = s.pcomp := (rfl)
@[simp] theorem loadRawP_pout (code : Raw) : (loadRawP code s).pout = s.pout := (rfl)
@[simp] theorem loadRawP_pinv (code : Raw) : (loadRawP code s).pinv = s.pinv := (rfl)
@[simp] theorem loadRawP_presv (code : Raw) : (loadRawP code s).presv = s.presv := (rfl)
@[simp] theorem loadRawP_ovft (code : Raw) : (loadRawP code s).ovft = s.ovft := (rfl)
@[simp] theorem loadRawP_ovfp (code : Raw) : (loadRawP code s).ovfp = s.ovfp := (rfl)
@[simp] theorem loadRawP_errcode (code : Raw) : (loadRawP code s).errcode = s.errcode := (rfl)
@[simp] theorem loadRawP_pending (code : Raw) : (loadRawP code s).pending = s.pending := (rfl)
@[simp] theorem loadRawP_reply (code : Raw) : (loadRawP code s).reply = s.reply := (rfl)

/-! `storeTemp` -/

@[simp] theorem storeTemp_stage (f t : Int) (o : Bool) : (storeTemp f t o s).stage = s.stage := (rfl)
@[simp] theorem storeTemp_smask (f t : Int) (o : Bool) : (storeTemp f t o s).smask = s.smask := (rfl)
@[simp] theorem storeTemp_cal (f t : Int) (o : Bool) : (storeTemp f t o s).cal = s.cal := (rfl)
@[simp] theorem storeTemp_calv (f t : Int) (o : Bool) : (storeTemp f t o s).calv = s.calv := (rfl)
@[simp] theorem storeTemp_rawT (f t : Int) (o : Bool) : (storeTemp f t o s).rawT = s.rawT := (rfl)
@[simp] theorem storeTemp_rawP (f t : Int) (o : Bool) : (storeTemp f t o s).rawP = s.rawP := (rfl)
@[simp] theorem storeTemp_rawtv (f t : Int) (o : Bool) : (storeTemp f t o s).rawtv = s.rawtv := (rfl)
@[simp] theorem storeTemp_rawpv (f t : Int) (o : Bool) : (storeTemp f t o s).rawpv = s.rawpv := (rfl)
@[simp] theorem storeTemp_fine (f t : Int) (o : Bool) : (storeTemp f t o s).fine = toReg f := (rfl)
@[simp] theorem storeTemp_finev (f t : Int) (o : Bool) : (storeTemp f t o s).finev = true := (rfl)
@[simp] theorem storeTemp_temp (f t : Int) (o : Bool) : (storeTemp f t o s).temp = toReg t := (rfl)
@[simp] theorem storeTemp_pcomp (f t : Int) (o : Bool) : (storeTemp f t o s).pcomp = s.pcomp := (rfl)
@[simp] theorem storeTemp_pout (f t : Int) (o : Bool) : (storeTemp f t o s).pout = s.pout := (rfl)
@[simp] theorem storeTemp_pinv (f t : Int) (o : Bool) : (storeTemp f t o s).pinv = s.pinv := (rfl)
@[simp] theorem storeTemp_presv (f t : Int) (o : Bool) : (storeTemp f t o s).presv = s.presv := (rfl)
@[simp] theorem storeTemp_ovft (f t : Int) (o : Bool) : (storeTemp f t o s).ovft = o := (rfl)
@[simp] theorem storeTemp_ovfp (f t : Int) (o : Bool) : (storeTemp f t o s).ovfp = s.ovfp := (rfl)
@[simp] theorem storeTemp_errcode (f t : Int) (o : Bool) : (storeTemp f t o s).errcode = s.errcode := (rfl)
@[simp] theorem storeTemp_pending (f t : Int) (o : Bool) : (storeTemp f t o s).pending = s.pending := (rfl)
@[simp] theorem storeTemp_reply (f t : Int) (o : Bool) : (storeTemp f t o s).reply = s.reply := (rfl)

/-! `storePress` -/

@[simp] theorem storePress_stage (pc po : Int) (inv o : Bool) : (storePress pc po inv o s).stage = s.stage := (rfl)
@[simp] theorem storePress_smask (pc po : Int) (inv o : Bool) : (storePress pc po inv o s).smask = s.smask := (rfl)
@[simp] theorem storePress_cal (pc po : Int) (inv o : Bool) : (storePress pc po inv o s).cal = s.cal := (rfl)
@[simp] theorem storePress_calv (pc po : Int) (inv o : Bool) : (storePress pc po inv o s).calv = s.calv := (rfl)
@[simp] theorem storePress_rawT (pc po : Int) (inv o : Bool) : (storePress pc po inv o s).rawT = s.rawT := (rfl)
@[simp] theorem storePress_rawP (pc po : Int) (inv o : Bool) : (storePress pc po inv o s).rawP = s.rawP := (rfl)
@[simp] theorem storePress_rawtv (pc po : Int) (inv o : Bool) : (storePress pc po inv o s).rawtv = s.rawtv := (rfl)
@[simp] theorem storePress_rawpv (pc po : Int) (inv o : Bool) : (storePress pc po inv o s).rawpv = s.rawpv := (rfl)
@[simp] theorem storePress_fine (pc po : Int) (inv o : Bool) : (storePress pc po inv o s).fine = s.fine := (rfl)
@[simp] theorem storePress_finev (pc po : Int) (inv o : Bool) : (storePress pc po inv o s).finev = s.finev := (rfl)
@[simp] theorem storePress_temp (pc po : Int) (inv o : Bool) : (storePress pc po inv o s).temp = s.temp := (rfl)
@[simp] theorem storePress_pcomp (pc po : Int) (inv o : Bool) : (storePress pc po inv o s).pcomp = toReg pc := (rfl)
@[simp] theorem storePress_pout (pc po : Int) (inv o : Bool) : (storePress pc po inv o s).pout = toReg po := (rfl)
@[simp] theorem storePress_pinv (pc po : Int) (inv o : Bool) : (storePress pc po inv o s).pinv = inv := (rfl)
@[simp] theorem storePress_presv (pc po : Int) (inv o : Bool) : (storePress pc po inv o s).presv = true := (rfl)
@[simp] theorem storePress_ovft (pc po : Int) (inv o : Bool) : (storePress pc po inv o s).ovft = s.ovft := (rfl)
@[simp] theorem storePress_ovfp (pc po : Int) (inv o : Bool) : (storePress pc po inv o s).ovfp = o := (rfl)
@[simp] theorem storePress_errcode (pc po : Int) (inv o : Bool) : (storePress pc po inv o s).errcode = s.errcode := (rfl)
@[simp] theorem storePress_pending (pc po : Int) (inv o : Bool) : (storePress pc po inv o s).pending = s.pending := (rfl)
@[simp] theorem storePress_reply (pc po : Int) (inv o : Bool) : (storePress pc po inv o s).reply = s.reply := (rfl)

/-! `respond` -/

@[simp] theorem respond_stage (r : Reply) : (respond r s).stage = s.stage := (rfl)
@[simp] theorem respond_smask (r : Reply) : (respond r s).smask = s.smask := (rfl)
@[simp] theorem respond_cal (r : Reply) : (respond r s).cal = s.cal := (rfl)
@[simp] theorem respond_calv (r : Reply) : (respond r s).calv = s.calv := (rfl)
@[simp] theorem respond_rawT (r : Reply) : (respond r s).rawT = s.rawT := (rfl)
@[simp] theorem respond_rawP (r : Reply) : (respond r s).rawP = s.rawP := (rfl)
@[simp] theorem respond_rawtv (r : Reply) : (respond r s).rawtv = s.rawtv := (rfl)
@[simp] theorem respond_rawpv (r : Reply) : (respond r s).rawpv = s.rawpv := (rfl)
@[simp] theorem respond_fine (r : Reply) : (respond r s).fine = s.fine := (rfl)
@[simp] theorem respond_finev (r : Reply) : (respond r s).finev = s.finev := (rfl)
@[simp] theorem respond_temp (r : Reply) : (respond r s).temp = s.temp := (rfl)
@[simp] theorem respond_pcomp (r : Reply) : (respond r s).pcomp = s.pcomp := (rfl)
@[simp] theorem respond_pout (r : Reply) : (respond r s).pout = s.pout := (rfl)
@[simp] theorem respond_pinv (r : Reply) : (respond r s).pinv = s.pinv := (rfl)
@[simp] theorem respond_presv (r : Reply) : (respond r s).presv = s.presv := (rfl)
@[simp] theorem respond_ovft (r : Reply) : (respond r s).ovft = s.ovft := (rfl)
@[simp] theorem respond_ovfp (r : Reply) : (respond r s).ovfp = s.ovfp := (rfl)
@[simp] theorem respond_errcode (r : Reply) : (respond r s).errcode = s.errcode := (rfl)
@[simp] theorem respond_pending (r : Reply) : (respond r s).pending = s.pending := (rfl)
@[simp] theorem respond_reply (r : Reply) : (respond r s).reply = some r := (rfl)

/-! `withPending` -/

@[simp] theorem withPending_stage (ts : List HostTxn) : (withPending ts s).stage = s.stage := (rfl)
@[simp] theorem withPending_smask (ts : List HostTxn) : (withPending ts s).smask = s.smask := (rfl)
@[simp] theorem withPending_cal (ts : List HostTxn) : (withPending ts s).cal = s.cal := (rfl)
@[simp] theorem withPending_calv (ts : List HostTxn) : (withPending ts s).calv = s.calv := (rfl)
@[simp] theorem withPending_rawT (ts : List HostTxn) : (withPending ts s).rawT = s.rawT := (rfl)
@[simp] theorem withPending_rawP (ts : List HostTxn) : (withPending ts s).rawP = s.rawP := (rfl)
@[simp] theorem withPending_rawtv (ts : List HostTxn) : (withPending ts s).rawtv = s.rawtv := (rfl)
@[simp] theorem withPending_rawpv (ts : List HostTxn) : (withPending ts s).rawpv = s.rawpv := (rfl)
@[simp] theorem withPending_fine (ts : List HostTxn) : (withPending ts s).fine = s.fine := (rfl)
@[simp] theorem withPending_finev (ts : List HostTxn) : (withPending ts s).finev = s.finev := (rfl)
@[simp] theorem withPending_temp (ts : List HostTxn) : (withPending ts s).temp = s.temp := (rfl)
@[simp] theorem withPending_pcomp (ts : List HostTxn) : (withPending ts s).pcomp = s.pcomp := (rfl)
@[simp] theorem withPending_pout (ts : List HostTxn) : (withPending ts s).pout = s.pout := (rfl)
@[simp] theorem withPending_pinv (ts : List HostTxn) : (withPending ts s).pinv = s.pinv := (rfl)
@[simp] theorem withPending_presv (ts : List HostTxn) : (withPending ts s).presv = s.presv := (rfl)
@[simp] theorem withPending_ovft (ts : List HostTxn) : (withPending ts s).ovft = s.ovft := (rfl)
@[simp] theorem withPending_ovfp (ts : List HostTxn) : (withPending ts s).ovfp = s.ovfp := (rfl)
@[simp] theorem withPending_errcode (ts : List HostTxn) : (withPending ts s).errcode = s.errcode := (rfl)
@[simp] theorem withPending_pending (ts : List HostTxn) : (withPending ts s).pending = ts := (rfl)
@[simp] theorem withPending_reply (ts : List HostTxn) : (withPending ts s).reply = s.reply := (rfl)

end Sys2Proof.Machine
end

