-- ==== Sys2Proof/Laws/Exec.lean ====
section
/-! SUPPORT. Laws/Exec: one inversion lemma for each meaning and each operation around it: if it answers a next state,
that state is one of these. Later proofs cite these and do not unfold the meanings. -/

namespace Sys2Proof.Machine

variable {s t : State}

/-- COMPT's answer in each case of its checks (R64). -/
theorem execCompt_noCal (hc : s.calv = false) : execCompt s = .next (reject .noCal s) := by
  simp [execCompt, hc]

theorem execCompt_noRaw (hc : s.calv = true) (hr : s.rawtv = false) :
    execCompt s = .next (reject .noRaw s) := by
  simp [execCompt, hc, hr]

theorem execCompt_enabled (hc : s.calv = true) (hr : s.rawtv = true) :
    execCompt s = .next (storeTemp (compT s.rawT s.cal).fine (compT s.rawT s.cal).temp
      (compT s.rawT s.cal).ovf s) := by
  simp only [execCompt, hc, hr, Bool.not_true, Bool.false_eq_true, if_false]

/-- COMPP's answer in each case of its checks (R65). -/
theorem execCompp_noCal (hc : s.calv = false) : execCompp s = .next (reject .noCal s) := by
  simp [execCompp, hc]

theorem execCompp_noRaw (hc : s.calv = true) (hr : s.rawpv = false) :
    execCompp s = .next (reject .noRaw s) := by
  simp [execCompp, hc, hr]

theorem execCompp_noFine (hc : s.calv = true) (hr : s.rawpv = true) (hf : s.finev = false) :
    execCompp s = .next (reject .noFine s) := by
  simp [execCompp, hc, hr, hf]

theorem execCompp_enabled (hc : s.calv = true) (hr : s.rawpv = true) (hf : s.finev = true) :
    execCompp s = .next (storePress (compP s.rawP (asS s.fine) s.cal).pcomp
      (compP s.rawP (asS s.fine) s.cal).pout (compP s.rawP (asS s.fine) s.cal).inv
      (compP s.rawP (asS s.fine) s.cal).ovf s) := by
  simp only [execCompp, hc, hr, hf, Bool.not_true, Bool.false_eq_true, if_false]

theorem execWrcal_cases {k : Nat} {lo hi : Byte} (h : execWrcal k lo hi s = .next t) :
    (12 ≤ k ∧ t = reject .badIndex s) ∨ (k < 12 ∧ s.calv = true ∧ t = reject .calLocked s) ∨
      (k < 12 ∧ s.calv = false ∧ t = stageEntry k (calValue lo hi) s) := by
  unfold execWrcal at h
  split at h
  · next hk => exact .inl ⟨hk, by simpa using h.symm⟩
  · next hk =>
    split at h
    · next hc => exact .inr (.inl ⟨by simpa using hk, hc, by simpa using h.symm⟩)
    · next hc => exact .inr (.inr ⟨by simpa using hk, by simpa using hc, by simpa using h.symm⟩)

theorem execCommit_cases (h : execCommit s = .next t) :
    (s.calv = true ∧ t = reject .calLocked s) ∨
      (s.calv = false ∧ s.smask ≠ 0xFFF#12 ∧ t = reject .calIncomplete s) ∨
      (s.calv = false ∧ s.smask = 0xFFF#12 ∧ t = activateStage s) := by
  unfold execCommit at h
  split at h
  · next hc => exact .inl ⟨hc, by simpa using h.symm⟩
  · next hc =>
    split at h
    · next hm => exact .inr (.inl ⟨by simpa using hc, hm, by simpa using h.symm⟩)
    · next hm => exact .inr (.inr ⟨by simpa using hc, by simpa using hm, by simpa using h.symm⟩)

theorem execCompt_cases (h : execCompt s = .next t) :
    (s.calv = false ∧ t = reject .noCal s) ∨ (s.calv = true ∧ s.rawtv = false ∧ t = reject .noRaw s) ∨
      (s.calv = true ∧ s.rawtv = true ∧
        t = storeTemp (compT s.rawT s.cal).fine (compT s.rawT s.cal).temp (compT s.rawT s.cal).ovf s) := by
  unfold execCompt at h
  split at h
  · next hc => exact .inl ⟨by simpa using hc, by simpa using h.symm⟩
  · next hc =>
    split at h
    · next hr => exact .inr (.inl ⟨by simpa using hc, by simpa using hr, by simpa using h.symm⟩)
    · next hr => exact .inr (.inr ⟨by simpa using hc, by simpa using hr, by simpa using h.symm⟩)

theorem execCompp_cases (h : execCompp s = .next t) :
    (s.calv = false ∧ t = reject .noCal s) ∨ (s.calv = true ∧ s.rawpv = false ∧ t = reject .noRaw s) ∨
      (s.calv = true ∧ s.rawpv = true ∧ s.finev = false ∧ t = reject .noFine s) ∨
      (s.calv = true ∧ s.rawpv = true ∧ s.finev = true ∧
        t = storePress (compP s.rawP (asS s.fine) s.cal).pcomp (compP s.rawP (asS s.fine) s.cal).pout
          (compP s.rawP (asS s.fine) s.cal).inv (compP s.rawP (asS s.fine) s.cal).ovf s) := by
  unfold execCompp at h
  split at h
  · next hc => exact .inl ⟨by simpa using hc, by simpa using h.symm⟩
  · next hc =>
    split at h
    · next hr => exact .inr (.inl ⟨by simpa using hc, by simpa using hr, by simpa using h.symm⟩)
    · next hr =>
      split at h
      · next hf =>
        exact .inr (.inr (.inl ⟨by simpa using hc, by simpa using hr, by simpa using hf, by simpa using h.symm⟩))
      · next hf =>
        exact .inr (.inr (.inr ⟨by simpa using hc, by simpa using hr, by simpa using hf, by simpa using h.symm⟩))

theorem answer_cases {r : Reply} {o : Host.Outcome State Fault Refusal} (h : answer r o = .next t) :
    ∃ u, o = .next u ∧ t = respond r u := by
  cases o with
  | next u => exact ⟨u, rfl, by simpa [answer] using h.symm⟩
  | fault f => cases f
  | refused f => cases h

theorem andThen_cases {o : Host.Outcome State Fault Refusal} {k : State → Host.Outcome State Fault Refusal}
    (h : andThen o k = .next t) : ∃ u, o = .next u ∧ k u = .next t := by
  cases o with
  | next u => exact ⟨u, rfl, h⟩
  | fault f => cases f
  | refused f => cases h

@[simp] theorem andThen_next (k : State → Host.Outcome State Fault Refusal) :
    andThen (.next s) k = k s := rfl

@[simp] theorem answer_next (r : Reply) : answer r (.next s) = .next (respond r s) := rfl

@[simp] theorem execAll_nil : execAll [] s = .next s := rfl

@[simp] theorem execAll_cons (i : Instr) (is : List Instr) :
    execAll (i :: is) s = andThen (exec i s) (execAll is) := rfl

theorem execute_cases {w : Word} (h : execute w s = .next t) :
    (∃ i, decode w = .command i ∧ exec i s = .next t) ∨ (∃ e, decode w = .rejected e ∧ t = reject e s) := by
  unfold execute at h
  split at h
  · next i hd => exact .inl ⟨i, hd, h⟩
  · next e hd => exact .inr ⟨e, hd, by simpa using h.symm⟩

/-- A write to the window either executes its word and is answered OK, or is answered ERR and changes nothing. -/
theorem hostWrite_cases {off : Offset} {w : Word} (h : hostWrite off w s = .next t) :
    (windowReg off = some .cmd ∧ ∃ u, execute w s = .next u ∧ t = respond (.plain .OK) u) ∨
      (windowReg off ≠ some .cmd ∧ t = respond (.plain .ERR) s) := by
  unfold hostWrite at h
  split at h
  · next hw => exact .inl ⟨hw, answer_cases h⟩
  · next hw => exact .inr ⟨hw, by simpa using h.symm⟩

/-- One transaction: an executed CMD write, an answer that changes no register, or the reset event. -/
theorem serve_cases {x : HostTxn} (h : serve x s = .next t) :
    (∃ off w u, x = .write 4 off w ∧ windowReg off = some .cmd ∧ execute w s = .next u ∧
        t = respond (.plain .OK) u) ∨
      (x ≠ .reset ∧ ∃ r, t = respond r s) ∨ (x = .reset ∧ t = resetEvent s) := by
  cases x with
  | read width off =>
    simp only [serve] at h
    split at h <;> exact .inr (.inl ⟨by simp, _, by simpa using h.symm⟩)
  | write width off w =>
    simp only [serve] at h
    split at h
    · exact .inr (.inl ⟨by simp, _, by simpa using h.symm⟩)
    · next hw =>
      obtain ⟨hc, u, hu, rfl⟩ | ⟨-, rfl⟩ := hostWrite_cases h
      · exact .inl ⟨off, w, u, by simpa using hw, hc, hu, rfl⟩
      · exact .inr (.inl ⟨by simp, _, rfl⟩)
  | reset => exact .inr (.inr ⟨rfl, by simpa [serve] using h.symm⟩)

/-- A step is idle, or serves the transaction at the front. -/
theorem step_cases (h : step s = .next t) :
    (s.pending = [] ∧ t = s) ∨
      ∃ x rest, s.pending = x :: rest ∧ serve x (withPending rest s) = .next t := by
  unfold step serveNext at h
  split at h
  · next hp => exact .inl ⟨hp, by simpa using h.symm⟩
  · next x rest hp => exact .inr ⟨x, rest, hp, h⟩

theorem step_of_pending {x : HostTxn} {rest : List HostTxn} (hp : s.pending = x :: rest) :
    step s = serve x (withPending rest s) := by
  simp [step, serveNext, hp]

/-- The one offset that is CMD. -/
theorem windowReg_eq_cmd_iff (off : Offset) : windowReg off = some .cmd ↔ off = 0 := by
  revert off
  decide

end Sys2Proof.Machine
end

