-- ==== Sys2Proof/Laws/Ops.lean ====
section
/-! SUPPORT. Laws/Ops: what the integer primitives of R6 to R8 can do, said once: their ranges, the floor of a right
shift, and how a narrowed value sits in a register. -/

namespace Sys2Proof.Machine

theorem s32_bounds (v : Int) : -2147483648 ≤ s32 v ∧ s32 v ≤ 2147483647 := by
  unfold s32; omega

theorem u32_bounds (v : Int) : 0 ≤ u32 v ∧ u32 v ≤ 4294967295 := by
  unfold u32; omega

theorem s32_of_inRange {v : Int} (lo : -2147483648 ≤ v) (hi : v ≤ 2147483647) : s32 v = v := by
  unfold s32; omega

theorem u32_of_inRange {v : Int} (lo : 0 ≤ v) (hi : v ≤ 4294967295) : u32 v = v := by
  unfold u32; omega

@[simp] theorem s32_s32 (v : Int) : s32 (s32 v) = s32 v :=
  s32_of_inRange (s32_bounds v).1 (s32_bounds v).2

@[simp] theorem u32_u32 (v : Int) : u32 (u32 v) = u32 v :=
  u32_of_inRange (u32_bounds v).1 (u32_bounds v).2

theorem leavesS32_eq_false_iff (v : Int) : leavesS32 v = false ↔ -2147483648 ≤ v ∧ v ≤ 2147483647 := by
  simp only [leavesS32, decide_eq_false_iff_not]; omega

theorem leavesS32_eq_true_iff (v : Int) : leavesS32 v = true ↔ v < -2147483648 ∨ 2147483647 < v := by
  simp only [leavesS32, decide_eq_true_eq]; omega

@[simp] theorem chk_val (v : Int) : (chk v).val = s32 v := rfl

@[simp] theorem chk_ovf (v : Int) : (chk v).ovf = leavesS32 v := rfl

/-- A checked step that stays in range is exact and unflagged. -/
theorem chk_of_inRange {v : Int} (lo : -2147483648 ≤ v) (hi : v ≤ 2147483647) : chk v = ⟨v, false⟩ := by
  unfold chk
  rw [s32_of_inRange lo hi, (leavesS32_eq_false_iff v).2 ⟨lo, hi⟩]

/-- `asr` is the floor of the quotient: `asr a k` is the one integer with this property (R7). -/
theorem asr_floor (a : Int) (k : Nat) : 2 ^ k * asr a k ≤ a ∧ a < 2 ^ k * (asr a k + 1) := by
  have hk : (0 : Int) < 2 ^ k := by positivity
  refine ⟨Int.mul_ediv_self_le hk.ne', ?_⟩
  rw [mul_add, mul_one]
  exact Int.lt_mul_ediv_self_add hk

/-- A register read as signed holds the signed narrowing of what was written (R6). -/
@[simp] theorem asS_toReg (v : Int) : asS (toReg v) = s32 v := by
  simp only [asS, toReg, s32, BitVec.toInt_ofInt, Int.bmod_def]
  split <;> omega

/-- A register read as unsigned holds the unsigned narrowing of what was written (R6). -/
@[simp] theorem asU_toReg (v : Int) : asU (toReg v) = u32 v := by
  simp only [asU, toReg, u32, BitVec.toNat_ofInt]
  omega

/-- `s32` and `u32` of one integer are the same pattern (R6). -/
@[simp] theorem toReg_s32 (v : Int) : toReg (s32 v) = toReg v := by
  apply BitVec.eq_of_toInt_eq
  have h := asS_toReg (s32 v)
  have h' := asS_toReg v
  simp only [asS, s32_s32] at h h'
  rw [h, h']

@[simp] theorem toReg_u32 (v : Int) : toReg (u32 v) = toReg v := by
  apply BitVec.eq_of_toNat_eq
  have h := asU_toReg (u32 v)
  have h' := asU_toReg v
  simp only [asU, u32_u32] at h h'
  exact_mod_cast h.trans h'.symm

@[simp] theorem toReg_asS (x : Word) : toReg (asS x) = x := by simp [toReg, asS]

@[simp] theorem toReg_asU (x : Word) : toReg (asU x) = x := by simp [toReg, asU]

theorem asS_bounds (x : Word) : -2147483648 ≤ asS x ∧ asS x ≤ 2147483647 := by
  have := x.toInt_lt; have := x.le_toInt
  simp only [asS]; omega

theorem asU_bounds (x : Word) : 0 ≤ asU x ∧ asU x ≤ 4294967295 := by
  have := x.isLt
  simp only [asU]; omega

/-- `sext_16(b) = zext_16(b) - 2^16 * b[15]` (R6), and the range of both (R17). -/
theorem zext16_bounds (b : Half) : 0 ≤ zext16 b ∧ zext16 b ≤ 65535 := by
  have := b.isLt
  simp only [zext16]; omega

theorem sext16_bounds (b : Half) : -32768 ≤ sext16 b ∧ sext16 b ≤ 32767 := by
  have := b.toInt_lt; have := b.le_toInt
  simp only [sext16]; omega

theorem sext16_eq (b : Half) : sext16 b = zext16 b - 2 ^ 16 * (if b.msb then 1 else 0) := by
  simp only [sext16, zext16, BitVec.toInt_eq_msb_cond]
  split <;> simp

theorem zext20_bounds (b : Raw) : 0 ≤ zext20 b ∧ zext20 b ≤ 1048575 := by
  have := b.isLt
  simp only [zext20]; omega

/-! How the primitives act on the patterns in registers: addition, subtraction, multiplication and left shift keep the
low 32 bits, a signed right shift repeats the sign bit, an unsigned one shifts in zeros (R66). -/

theorem toReg_add (a b : Int) : toReg (a + b) = toReg a + toReg b := by
  simp [toReg, BitVec.ofInt_add]

theorem toReg_mul (a b : Int) : toReg (a * b) = toReg a * toReg b := by
  simp [toReg, BitVec.ofInt_mul]

theorem toReg_sub (a b : Int) : toReg (a - b) = toReg a - toReg b := by
  have h : toReg a = toReg (a - b) + toReg b := by rw [← toReg_add]; congr 1; omega
  rw [h]; simp

/-- Two register patterns are equal when they read the same unsigned. -/
theorem reg_ext {x y : Word} (h : asU x = asU y) : x = y := by
  simp only [asU] at h
  exact BitVec.eq_of_toNat_eq (by exact_mod_cast h)

theorem toReg_shl (a : Int) (k : Nat) : toReg (shl a k) = toReg a <<< k := by
  apply reg_ext
  have h : asU (toReg a <<< k) = asU (toReg a) * 2 ^ k % 2 ^ 32 := by
    simp only [asU, BitVec.toNat_shiftLeft, Nat.shiftLeft_eq]
    push_cast; rfl
  rw [h, asU_toReg, asU_toReg]
  simp only [u32, shl]
  norm_num [Int.mul_emod]

theorem toReg_asr (v : Int) (k : Nat) : toReg (asr (s32 v) k) = (toReg v).sshiftRight k := by
  apply BitVec.eq_of_toInt_eq
  rw [BitVec.toInt_sshiftRight, Int.shiftRight_eq_div_pow]
  have h := asS_toReg (asr (s32 v) k)
  have h' := asS_toReg v
  simp only [asS] at h h'
  rw [h, h']
  have b := s32_bounds v
  have f := asr_floor (s32 v) k
  have hk : (1 : Int) ≤ 2 ^ k := by exact_mod_cast Nat.one_le_two_pow
  rw [s32_of_inRange]
  · simp [asr]
  · by_contra hc; push Not at hc; nlinarith
  · by_contra hc; push Not at hc; nlinarith

theorem toReg_lsr (v : Int) (k : Nat) : toReg (lsr (u32 v) k) = toReg v >>> k := by
  apply reg_ext
  have b := u32_bounds v
  have q0 : 0 ≤ lsr (u32 v) k := Int.ediv_nonneg b.1 (by positivity)
  have q1 : lsr (u32 v) k ≤ u32 v := Int.ediv_le_self _ b.1
  have h : asU (toReg v >>> k) = asU (toReg v) / 2 ^ k := by
    simp only [asU, BitVec.toNat_ushiftRight, Nat.shiftRight_eq_div_pow]
    push_cast; rfl
  rw [h, asU_toReg, asU_toReg, u32_of_inRange q0 (by omega)]
  rfl

theorem toReg_udiv {a b : Int} (ha : 0 ≤ a ∧ a ≤ 4294967295) (hb : 0 ≤ b ∧ b ≤ 4294967295) :
    toReg (udiv a b) = toReg a / toReg b := by
  apply reg_ext
  have q0 : 0 ≤ udiv a b := Int.ediv_nonneg ha.1 hb.1
  have q1 : udiv a b ≤ a := Int.ediv_le_self _ ha.1
  have h : asU (toReg a / toReg b) = asU (toReg a) / asU (toReg b) := by
    simp only [asU, BitVec.toNat_udiv]
    push_cast; rfl
  rw [h, asU_toReg, asU_toReg, asU_toReg, u32_of_inRange q0 (by omega), u32_of_inRange ha.1 ha.2,
    u32_of_inRange hb.1 hb.2]
  rfl

theorem toReg_sext16 (b : Half) : toReg (sext16 b) = b.signExtend 32 := by
  simp [toReg, sext16, BitVec.signExtend]

theorem toReg_zext16 (b : Half) : toReg (zext16 b) = b.zeroExtend 32 := by
  apply BitVec.eq_of_toNat_eq; simp [toReg, zext16]

theorem toReg_zext20 (b : Raw) : toReg (zext20 b) = b.zeroExtend 32 := by
  apply BitVec.eq_of_toNat_eq; simp [toReg, zext20]

end Sys2Proof.Machine
end

