-- ==== Sys2Proof/Laws/Compensation.lean ====
section
/-! SUPPORT. Laws/Compensation: what CompT and CompP can answer, said once, so that proofs about COMPT and COMPP do not
unfold their steps. -/

namespace Sys2Proof.Machine

/-- A signed 32-bit value shifted right by 11 and another shifted right by 14 add up to at most this (R62). -/
theorem compT_fine_bounds (raw : Raw) (cal : CalFile) :
    -1179648 ≤ (compT raw cal).fine ∧ (compT raw cal).fine ≤ 1179646 := by
  simp only [compT, chk_val]
  generalize s32 _ * coefT2 cal = d
  generalize asr (s32 _) 12 * coefT3 cal = h
  have := s32_bounds d
  have := s32_bounds h
  simp only [asr]
  rw [s32_of_inRange] <;> omega

/-- CompT's temperature is R62's last two lines applied to its fine temperature. -/
theorem compT_temp (raw : Raw) (cal : CalFile) : (compT raw cal).temp = tempOfFine (compT raw cal).fine := by
  simp only [compT, tempOfFine, chk_val]

/-- CompP on the sentinel (R63 step 7). -/
theorem compP_of_zero {raw : Raw} {fine : Int} {cal : CalFile} (h : (pressPoly fine cal).v1Step6 = 0) :
    compP raw fine cal = ⟨0, 0, true, (pressPoly fine cal).ovf⟩ := by
  simp only [compP, h, if_true]

/-- Step 8 narrows once: the inner narrowings of R63 are lost in the outer one. -/
theorem pressStep8_eq (raw : Raw) (v2 : Int) :
    pressStep8 raw v2 = (1048576 - zext20 raw - v2 / 4096) * 3125 % 4294967296 := by
  simp only [pressStep8, u32, asr]
  omega

/-- Step 9 on an unsigned 32-bit value: the doubling before the division narrows nothing (R68). -/
theorem pressStep9_eq (c v : Int) :
    pressStep9 (c % 4294967296) v =
      if c % 4294967296 < 2147483648 then c % 4294967296 * 2 / (v % 4294967296)
      else c % 4294967296 / (v % 4294967296) * 2 % 4294967296 := by
  simp only [pressStep9, u32, shl, udiv]
  split
  · rw [Int.emod_eq_of_lt (a := c % 4294967296 * 2 ^ 1) (by omega) (by omega)]
    norm_num
  · norm_num

/-- The quotient of step 9 that CompP goes on with (R63). -/
def pressQuotient (raw : Raw) (fine : Int) (cal : CalFile) : Int :=
  pressStep9 (pressStep8 raw (pressPoly fine cal).v2Step4) (pressPoly fine cal).v1Step6

/-- CompP past the guard (R63 steps 8 to 13). -/
theorem compP_of_ne_zero {raw : Raw} {fine : Int} {cal : CalFile} (h : (pressPoly fine cal).v1Step6 ≠ 0) :
    compP raw fine cal =
      ⟨u32 (pressQuotient raw fine cal + (pressCorr (pressQuotient raw fine cal) cal).e),
        u32 (u32 (pressQuotient raw fine cal + (pressCorr (pressQuotient raw fine cal) cal).e) * Config.poutScale),
        false, (pressPoly fine cal).ovf || (pressCorr (pressQuotient raw fine cal) cal).ovf⟩ := by
  simp only [compP, h, if_false, pressQuotient]

/-- Both results of CompP are unsigned 32-bit values. -/
theorem compP_pcomp_bounds (raw : Raw) (fine : Int) (cal : CalFile) :
    0 ≤ (compP raw fine cal).pcomp ∧ (compP raw fine cal).pcomp ≤ 4294967295 := by
  by_cases h : (pressPoly fine cal).v1Step6 = 0
  · rw [compP_of_zero h]; simp
  · rw [compP_of_ne_zero h]; exact u32_bounds _

/-- A rejection's code is one of 1 to 8 (R73). -/
theorem Rejection.code_range (e : Rejection) : 1 ≤ (Rejection.code e).toNat ∧ (Rejection.code e).toNat ≤ 8 := by
  cases e <;> decide

end Sys2Proof.Machine
end

