-- ==== Sys2Proof/Laws/Decode.lean ====
section
/-! SUPPORT. Laws/Decode: the fields of a packed word, one lemma a field, and what decoding can answer. -/

namespace Sys2Proof

/-- Appending bit patterns is addition at the weight of the upper one. -/
theorem append_toNat {m n : Nat} (x : BitVec m) (y : BitVec n) :
    (x ++ y).toNat = x.toNat * 2 ^ n + y.toNat := by
  rw [BitVec.toNat_append, ← Nat.shiftLeft_add_eq_or_of_lt y.isLt, Nat.shiftLeft_eq]

/-- The fields as numbers: each is a quotient and a remainder of the word (R48). -/
theorem fieldOp_toNat (w : Word) : (fieldOp w).toNat = w.toNat / 2 ^ 28 := by
  have := w.isLt
  simp only [fieldOp, BitVec.extractLsb'_toNat, Nat.shiftRight_eq_div_pow]
  omega

theorem fieldIdx_toNat (w : Word) : (fieldIdx w).toNat = w.toNat / 2 ^ 24 % 16 := by
  simp [fieldIdx, BitVec.extractLsb'_toNat, Nat.shiftRight_eq_div_pow]

theorem fieldB2_toNat (w : Word) : (fieldB2 w).toNat = w.toNat / 2 ^ 16 % 256 := by
  simp [fieldB2, BitVec.extractLsb'_toNat, Nat.shiftRight_eq_div_pow]

theorem fieldB1_toNat (w : Word) : (fieldB1 w).toNat = w.toNat / 2 ^ 8 % 256 := by
  simp [fieldB1, BitVec.extractLsb'_toNat, Nat.shiftRight_eq_div_pow]

theorem fieldB0_toNat (w : Word) : (fieldB0 w).toNat = w.toNat % 256 := by
  simp [fieldB0, BitVec.extractLsb'_toNat]

theorem fieldBody_toNat (w : Word) : (fieldBody w).toNat = w.toNat % 2 ^ 28 := by
  simp [fieldBody, BitVec.extractLsb'_toNat]

variable (op idx : BitVec 4) (b2 b1 b0 : Byte)

/-- A packed word as a number (R48, R55). -/
theorem packWord_toNat : (packWord op idx b2 b1 b0).toNat =
    op.toNat * 2 ^ 28 + idx.toNat * 2 ^ 24 + b2.toNat * 2 ^ 16 + b1.toNat * 2 ^ 8 + b0.toNat := by
  unfold packWord
  simp only [append_toNat]
  omega

@[simp] theorem fieldOp_packWord : fieldOp (packWord op idx b2 b1 b0) = op := by
  apply BitVec.eq_of_toNat_eq
  have := op.isLt; have := idx.isLt; have := b2.isLt; have := b1.isLt; have := b0.isLt
  rw [fieldOp_toNat, packWord_toNat]; omega

@[simp] theorem fieldIdx_packWord : fieldIdx (packWord op idx b2 b1 b0) = idx := by
  apply BitVec.eq_of_toNat_eq
  have := op.isLt; have := idx.isLt; have := b2.isLt; have := b1.isLt; have := b0.isLt
  rw [fieldIdx_toNat, packWord_toNat]; omega

@[simp] theorem fieldB2_packWord : fieldB2 (packWord op idx b2 b1 b0) = b2 := by
  apply BitVec.eq_of_toNat_eq
  have := op.isLt; have := idx.isLt; have := b2.isLt; have := b1.isLt; have := b0.isLt
  rw [fieldB2_toNat, packWord_toNat]; omega

@[simp] theorem fieldB1_packWord : fieldB1 (packWord op idx b2 b1 b0) = b1 := by
  apply BitVec.eq_of_toNat_eq
  have := op.isLt; have := idx.isLt; have := b2.isLt; have := b1.isLt; have := b0.isLt
  rw [fieldB1_toNat, packWord_toNat]; omega

@[simp] theorem fieldB0_packWord : fieldB0 (packWord op idx b2 b1 b0) = b0 := by
  apply BitVec.eq_of_toNat_eq
  have := op.isLt; have := idx.isLt; have := b2.isLt; have := b1.isLt; have := b0.isLt
  rw [fieldB0_toNat, packWord_toNat]; omega

/-- A word is the packing of its five fields (R48): no bit of it is dropped. -/
theorem packWord_fields (w : Word) :
    packWord (fieldOp w) (fieldIdx w) (fieldB2 w) (fieldB1 w) (fieldB0 w) = w := by
  apply BitVec.eq_of_toNat_eq
  have := w.isLt
  rw [packWord_toNat, fieldOp_toNat, fieldIdx_toNat, fieldB2_toNat, fieldB1_toNat, fieldB0_toNat]
  omega

/-- A command without operands decodes only from a word whose other 28 bits are zero. -/
theorem decodePlain_command {w : Word} {i j : Instr} (h : decodePlain w i = .command j) :
    fieldBody w = 0 ∧ i = j := by
  unfold decodePlain at h
  split at h
  · cases h
  · next hb => exact ⟨by simpa using hb, by simpa using h⟩

end Sys2Proof
end

