-- ==== Sys2Proof/Laws/PerInstr.lean ====
section
/-! SUPPORT. Laws/PerInstr: laws stated for each constructor of Instr on its own (LAWS.json). -/

namespace Sys2Proof.Laws

/-- A well-formed command's word lies in the opcode map's row of its mnemonic (R51): no must-be-zero bit is set. -/
def EncodeInMap.Statement (i : Instr) : Prop :=
  WellFormed i → ∀ r ∈ opcodeMap, r.mnemonic = i.mnemonic → r.matchesWord (encode i) = true

theorem EncodeInMap.nop : EncodeInMap.Statement .nop := fun _ => by decide

theorem EncodeInMap.commit : EncodeInMap.Statement .commit := fun _ => by decide

theorem EncodeInMap.compt : EncodeInMap.Statement .compt := fun _ => by decide

theorem EncodeInMap.compp : EncodeInMap.Statement .compp := fun _ => by decide

theorem EncodeInMap.clrerr : EncodeInMap.Statement .clrerr := fun _ => by decide

/-- Masking a pattern masks its two halves. -/
theorem append_and {m n : Nat} (x x' : BitVec m) (y y' : BitVec n) :
    (x ++ y) &&& (x' ++ y') = (x &&& x') ++ (y &&& y') := by
  simp [BitVec.and_append]

/-- The bits a packed word has under a packed mask. -/
theorem packWord_and (op idx op' idx' : BitVec 4) (b2 b1 b0 b2' b1' b0' : Byte) :
    packWord op idx b2 b1 b0 &&& packWord op' idx' b2' b1' b0' =
      packWord (op &&& op') (idx &&& idx') (b2 &&& b2') (b1 &&& b1') (b0 &&& b0') := by
  unfold packWord
  show (op ++ idx ++ b2 ++ b1 ++ b0) &&& (op' ++ idx' ++ b2' ++ b1' ++ b0') = _
  rw [append_and, append_and, append_and, append_and]

theorem packWord_and_wrcalMask (op idx : BitVec 4) (b2 b1 b0 : Byte) :
    packWord op idx b2 b1 b0 &&& 0xF0FF0000#32 = packWord op 0 b2 0 0 := by
  have h := packWord_and op idx 0xF 0 b2 b1 b0 0xFF 0 0
  rw [show packWord 0xF 0 0xFF 0 0 = 0xF0FF0000#32 by decide] at h
  rw [h]
  congr 1
  · exact BitVec.and_allOnes
  · simp
  · exact BitVec.and_allOnes
  · simp
  · simp

theorem packWord_and_loadMask (op idx : BitVec 4) (b2 b1 b0 : Byte) :
    packWord op idx b2 b1 b0 &&& 0xFF000000#32 = packWord op idx 0 0 0 := by
  have h := packWord_and op idx 0xF 0xF b2 b1 b0 0 0 0
  rw [show packWord 0xF 0xF 0 0 0 = 0xFF000000#32 by decide] at h
  rw [h]
  congr 1
  · exact BitVec.and_allOnes
  · exact BitVec.and_allOnes
  · simp
  · simp
  · simp

theorem EncodeInMap.wrcal (k : Nat) (lo hi : Byte) : EncodeInMap.Statement (.wrcal k lo hi) := by
  intro _ r hr hm
  simp only [opcodeMap, List.mem_cons, List.not_mem_nil, or_false] at hr
  obtain rfl | rfl | rfl | rfl | rfl | rfl | rfl | rfl := hr <;> first
    | exact absurd hm (by simp only [Instr.mnemonic]; decide)
    | (simp only [OpcodeRow.matchesWord, encode, packWord_and_wrcalMask, decide_eq_true_eq]; decide)

theorem EncodeInMap.ldrawt (msb lsb xlsb : Byte) : EncodeInMap.Statement (.ldrawt msb lsb xlsb) := by
  intro _ r hr hm
  simp only [opcodeMap, List.mem_cons, List.not_mem_nil, or_false] at hr
  obtain rfl | rfl | rfl | rfl | rfl | rfl | rfl | rfl := hr <;> first
    | exact absurd hm (by simp only [Instr.mnemonic]; decide)
    | (simp only [OpcodeRow.matchesWord, encode, packWord_and_loadMask, decide_eq_true_eq]; decide)

theorem EncodeInMap.ldrawp (msb lsb xlsb : Byte) : EncodeInMap.Statement (.ldrawp msb lsb xlsb) := by
  intro _ r hr hm
  simp only [opcodeMap, List.mem_cons, List.not_mem_nil, or_false] at hr
  obtain rfl | rfl | rfl | rfl | rfl | rfl | rfl | rfl := hr <;> first
    | exact absurd hm (by simp only [Instr.mnemonic]; decide)
    | (simp only [OpcodeRow.matchesWord, encode, packWord_and_loadMask, decide_eq_true_eq]; decide)

end Sys2Proof.Laws
end

