-- ==== Sys2Proof/Tests/Slice0.lean ====
section
/-! SUPPORT. Tests/Slice0: the model's own tests, with results taken from spec/95_test_vectors.md or worked out from the rules,
never from the model; the smoke test of WellFormed; and for each obligation with hypotheses a concrete state and
operands that meet them. -/

namespace Sys2Proof.Tests

open Sys2Proof.Machine

/-- The reference calibration set (95_test_vectors.md, the table at its top). -/
def refCal : CalFile :=
  #v[0x6B70, 0x6743, 0xFC18, 0x8E7D, 0xD643, 0x0BD0, 0x0B27, 0x008C, 0xFFF9, 0x3C8C, 0xC6F8, 0x1770]

/-- The twelve entries of a set are staged; no COMMIT yet. -/
def staged (c : CalFile) : State := { State.reset with stage := c, smask := 0xFFF }

/-- A set is active: the state "CALV" of 95_test_vectors.md section 2.5. -/
def committed (c : CalFile) : State := activateStage (staged c)

/-- A set is active and the reference raw codes are loaded; no COMPT yet. -/
def loaded (c : CalFile) : State := loadRawP 0x655AC (loadRawT 0x7EED0 (committed c))

/-- As `loaded`, with the reference FINE and TEMP computed. -/
def measured (c : CalFile) : State := storeTemp 128422 2508 false (loaded c)

/-- As `measured`, with the FINE and TEMP of vector P12 (95_test_vectors.md section 2). -/
def fine12 (c : CalFile) : State := storeTemp (-721301) (-14088) false (loaded c)

/-- As `measured`, with the FINE of vector P9 and its coefficient P1 = 1 (95_test_vectors.md section 2). -/
def fine9 (c : CalFile) : State := storeTemp 0 0 false (loaded (c.set 3 1))

/-- The next state of an outcome. -/
def nextOf : Host.Outcome State Fault Refusal → Option State
  | .next s => some s
  | .fault _ => none
  | .refused _ => none

/-- The state after one step in which the host writes a word to CMD. -/
def cmd (w : Word) (s : State) : Option State := nextOf (step (issueCommand w s))

/-- STATUS after that step. -/
def statusAfter (w : Word) (s : State) : Option Word := (cmd w s).map statusWord

/-! ### WellFormed and decoding -/

/-- Smoke test: an index over 15 is refused (R55). -/
theorem test_wellFormed_refuses_index : ¬ WellFormed (.wrcal 16 0x70 0x6B) := by decide

/-- Indices 12 to 15 are assemblable (R55). -/
theorem test_wellFormed_allows_bad_index : WellFormed (.wrcal 15 0x70 0x6B) := by decide

/-- OP = 0001, IDX = 1011, B2 = 0, hi = 0001_0111, lo = 0111_0000 (R48, R49). -/
theorem test_decode_wrcal :
    decode 0b0001_1011_00000000_00010111_01110000 = .command (.wrcal 11 0x70 0x17) := by decide

theorem test_decode_commit : decode 0b0010_0000_00000000_00000000_00000000 = .command .commit := by decide

theorem test_decode_ldrawt :
    decode 0b0011_0000_01111110_11101101_00000000 = .command (.ldrawt 0x7E 0xED 0x00) := by decide

theorem test_decode_ldrawp :
    decode 0b0100_0000_01100101_01011010_11001111 = .command (.ldrawp 0x65 0x5A 0xCF) := by decide

theorem test_decode_compt : decode 0b0101_0000_00000000_00000000_00000000 = .command .compt := by decide

theorem test_decode_compp : decode 0b0110_0000_00000000_00000000_00000000 = .command .compp := by decide

theorem test_decode_nop : decode 0b0000_0000_00000000_00000000_00000000 = .command .nop := by decide

theorem test_decode_clrerr : decode 0b0111_0000_00000000_00000000_00000000 = .command .clrerr := by decide

/-- A table word of a length that does not fit one command (R54). -/
theorem test_decodeTableWord_length :
    decodeTableWord 32 0x50000000 = some .compt ∧ decodeTableWord 40 (0x50000000 + 2 ^ 32) = none := by decide

/-! ### The commands, one step each -/

/-- 2.4, first row: STAGE[0], SMASK and STATUS after 0x1000_6B70; CAL[0] reads 0. -/
theorem test_wrcal_stages : (cmd 0x10006B70 State.reset).map
    (fun t => (t.stage[0], t.smask, statusWord t, t.cal[0])) = some (0x6B70, 0x001, 0x00001000, 0x0000) := by decide

/-- E5, E6, E7, E8: the order of WRCAL's checks. -/
theorem test_wrcal_checks : statusAfter 0x1F010000 State.reset = some 0x00000200 ∧
    statusAfter 0x1C000000 State.reset = some 0x00000300 ∧
    statusAfter 0x1C000000 (committed refCal) = some 0x00FFF301 ∧
    statusAfter 0x10000000 (committed refCal) = some 0x00FFF401 := by decide

/-- 2.4: COMMIT after the twelve WRCALs. -/
theorem test_commit_activates : (cmd 0x20000000 (staged refCal)).map (fun t => (t.cal, statusWord t)) =
    some (refCal, 0x00FFF001) := by decide

/-- E9, E10, E11: the order of COMMIT's checks. -/
theorem test_commit_checks : statusAfter 0x20000001 (committed refCal) = some 0x00FFF201 ∧
    statusAfter 0x20000000 (committed refCal) = some 0x00FFF401 ∧
    statusAfter 0x20000000 { State.reset with smask := 0x7FF } = some 0x007FF500 := by decide

/-- 2.3: the largest code; L1-2: DOC's raw_temp. -/
theorem test_ldrawt : statusAfter 0x30FFFFFF State.reset = some 0x00000002 ∧
    (cmd 0x30FFFFFF State.reset).map (·.rawT) = some 0xFFFFF ∧
    (cmd 0x307EED00 State.reset).map (·.rawT) = some 519888 := by decide

/-- L1-2: bits 3:0 of xlsb are ignored; 2.3: IDX = 0xF is RSVD_FIELD. -/
theorem test_ldrawp : (cmd 0x40655ACF State.reset).map (·.rawP) = some 415148 ∧
    (cmd 0x4F655AC0 State.reset).map (fun t => (t.rawP, t.rawpv, t.errcode)) = some (0, false, 2) := by decide

/-- R64's example (vector T1), and the order of COMPT's checks (E13, E14). -/
theorem test_compt_golden : (cmd 0x50000000 (loaded refCal)).map (fun t => (t.fine, t.temp, t.ovft, t.finev)) =
      some (0x0001F5A6, 0x000009CC, false, true) ∧
    statusAfter 0x50000000 State.reset = some 0x00000600 ∧
    statusAfter 0x50000000 (committed refCal) = some 0x00FFF701 := by decide

/-- Vectors T5, T7 and T9: wraps with OVFT, mixed signedness, rounding. -/
theorem test_compt_vectors :
    (fun r : TempSteps => (r.d, r.f, r.fine, r.temp, r.ovf))
      (compT 0xFFFFF #v[0, 0x7FFF, 0x7FFF, 0, 0, 0, 0, 0, 0, 0, 0, 0]) = (-163839, -131071, -144, -3, true) ∧
    (fun r : TempSteps => (r.b, r.c, r.e, r.fine, r.ovf))
      (compT 0x80000 #v[0x8000, 0x8000, 0x8000, 0, 0, 0, 0, 0, 0, 0, 0, 0]) = (65536, 0, 0, 0, false) ∧
    (fun r : TempSteps => (r.fine, r.j, r.temp))
      (compT 0x000D0 #v[0, 0xF800, 0, 0, 0, 0, 0, 0, 0, 0, 0, 0]) = (-26, -2, -1) := by decide

/-- R65's example (vector P1), and the order of COMPP's last checks (E15, E16). -/
theorem test_compp_golden : (cmd 0x60000000 (measured refCal)).map (fun t => (t.pcomp, t.pout, statusWord t)) =
      some (0x00018930, 0x05FFE380, 0x00FFF08F) ∧
    statusAfter 0x60000000 (loadRawP 0x655AC (committed refCal)) = some 0x00FFF805 ∧
    statusAfter 0x60000000 { measured refCal with rawP := 0, rawpv := false } = some 0x00FFF70B := by decide

/-- Vectors P5, P7, P8 and P9: the else-branch, a negative divisor, the sentinel, the divisor 1 with OVFP. -/
theorem test_compp_vectors :
    compP 0 128422 refCal = ⟨173204, 173204000, false, false⟩ ∧
    compP 0x655AC 0 (refCal.set 3 0xFFFF) = ⟨968, 968000, false, true⟩ ∧
    compP 0x655AC 128422 (refCal.set 3 0x0001) = ⟨0, 0, true, false⟩ ∧
    compP 0x655AC 0 (refCal.set 3 0x0001) = ⟨3680578420, 4086414624, false, true⟩ := by decide

/-- E19: a completed NOP keeps ERRCODE 4; E3: a nonzero field. -/
theorem test_nop : statusAfter 0x00000000 (reject .calLocked (committed refCal)) = some 0x00FFF401 ∧
    statusAfter 0x00000001 State.reset = some 0x00000200 := by decide

/-- E18: CLRERR after ERRCODE 4; E21: a nonzero field; E1 and E2: illegal opcodes. -/
theorem test_clrerr : statusAfter 0x70000000 (reject .calLocked (committed refCal)) = some 0x00FFF001 ∧
    statusAfter 0x70000001 State.reset = some 0x00000200 ∧
    statusAfter 0x80000000 State.reset = some 0x00000100 ∧
    statusAfter 0xF0000000 State.reset = some 0x00000100 := by decide

/-! ### The host window, the reset event and the assembler -/

/-- H1, H2, H4 and "READ CAL[2] -> 0x0000_FC18" (2.4); H5, H6. -/
theorem test_hostRead : hostRead 0x00 (measured refCal) = (.OK, 0) ∧
    hostRead 0x08 (measured refCal) = (.OK, 0x0001F5A6) ∧ hostRead 0x4C (measured refCal) = (.OK, 0x00001770) ∧
    hostRead 0x28 (measured refCal) = (.OK, 0x0000FC18) ∧ (hostRead 0x02 (measured refCal)).1 = .ERR ∧
    (hostRead 0x50 (measured refCal)).1 = .ERR := by decide

/-- H8, H9: a write to 0x08 and a half-word write to CMD execute nothing; ERRCODE stays 1. -/
theorem test_error_accesses :
    nextOf (step { reject .illegalOpcode State.reset with pending := [.write 4 0x08 0x70000000] }) =
      some { reject .illegalOpcode State.reset with reply := some (.plain .ERR) } ∧
    nextOf (step { reject .illegalOpcode State.reset with pending := [.write 2 0x00 0x70000000] }) =
      some { reject .illegalOpcode State.reset with reply := some (.plain .ERR) } := by decide

/-- The reset event clears the calibration and keeps what the host has still to issue. -/
theorem test_reset_event :
    nextOf (step { measured refCal with pending := [.reset, .read 4 0x04] }) =
      some { State.reset with pending := [.read 4 0x04] } := by decide

/-- A line of L3-1 with its comment, and a refused index (R55). -/
theorem test_assemble_wrcal :
    assembleText "WRCAL 4,  0x43, 0xD6     ; P2 = -10685" = some [.write 4 0x00 0x1400D643] ∧
    assembleText "WRCAL 16, 0, 0" = none := by decide

/-- R56: `LDCAL 4, -10685` is the same word; SETRAWP and MEASURE; R57: READ and RESET. -/
theorem test_assemble_pseudo :
    assembleText "LDCAL 4, -10685" = some [.write 4 0x00 0x1400D643] ∧
    assembleText "SETRAWP 0x655AC\nMEASURE" =
      some [.write 4 0x00 0x40655AC0, .write 4 0x00 0x50000000, .write 4 0x00 0x60000000] ∧
    assembleText "RESET\nREAD CAL[11] -> 0x00001770" = some [.reset, .read 4 0x4C] := by decide

/-! ### Witnesses: the hypotheses of the obligations can be met -/

theorem witness_DecodeOfEncode : WellFormed (.wrcal 15 0xFF 0xFF) ∧ WellFormed .compp := by decide

theorem witness_EncodeOfDecode : decode 0x1F00FFFF = .command (.wrcal 15 0xFF 0xFF) := by decide

theorem witness_DecoderAcceptsOpcodeMap :
    (⟨"WRCAL", 0x10000000#32, 0xF0FF0000#32⟩ : OpcodeRow) ∈ opcodeMap := by simp [opcodeMap]

theorem witness_EncodedWordsByFormula : (15 : Nat) ≤ 15 := by decide

/-- One word for each clause of R52, at an edge of its range. -/
theorem witness_ExecuteChecksThenDispatches :
    8 ≤ (0x80000000#32).toNat / 2 ^ 28 ∧
    ((0x7FFFFFFF#32).toNat / 2 ^ 28 = 7 ∧ (0x7FFFFFFF#32).toNat % 2 ^ 28 ≠ 0) ∧
    ((0x10010000#32).toNat / 2 ^ 28 = 1 ∧ (0x10010000#32).toNat / 2 ^ 16 % 256 ≠ 0) ∧
    ((0x31000000#32).toNat / 2 ^ 28 = 3 ∧ (0x31000000#32).toNat / 2 ^ 24 % 16 ≠ 0) ∧
    ((0x00000000#32).toNat / 2 ^ 28 = 0 ∧ (0x00000000#32).toNat % 2 ^ 28 = 0) ∧
    ((0x1F00FFFF#32).toNat / 2 ^ 28 = 1 ∧ (0x1F00FFFF#32).toNat / 2 ^ 16 % 256 = 0) ∧
    ((0x20000000#32).toNat / 2 ^ 28 = 2 ∧ (0x20000000#32).toNat % 2 ^ 28 = 0) ∧
    ((0x30FFFFFF#32).toNat / 2 ^ 28 = 3 ∧ (0x30FFFFFF#32).toNat / 2 ^ 24 % 16 = 0) ∧
    ((0x40000000#32).toNat / 2 ^ 28 = 4 ∧ (0x40000000#32).toNat / 2 ^ 24 % 16 = 0) ∧
    ((0x50000000#32).toNat / 2 ^ 28 = 5 ∧ (0x50000000#32).toNat % 2 ^ 28 = 0) ∧
    ((0x60000000#32).toNat / 2 ^ 28 = 6 ∧ (0x60000000#32).toNat % 2 ^ 28 = 0) ∧
    ((0x70000000#32).toNat / 2 ^ 28 = 7 ∧ (0x70000000#32).toNat % 2 ^ 28 = 0) := by decide

theorem witness_StepRunsDecodedCommand :
    (issueCommand 0x10006B70 State.reset).pending = .write 4 0x00 0x10006B70 :: [] ∧
    decode 0x10006B70 = .command (.wrcal 0 0x70 0x6B) := by decide

theorem witness_FetchedWordRunsNext : decode 0x50000000 = .command .compt := by decide

/-- The first and the last mapped offset, the first and the last entry of CAL, the first reserved and a misaligned
offset. -/
theorem witness_HostReadAnswersRegister :
    ({ State.reset with pending := [.read 4 0x4C] } : State).pending = .read 4 (0x4C : Offset) :: [] ∧
    (0x4C : Offset).toNat % 4 = 0 ∧ (0x4C : Offset).toNat < 0x50 ∧ (0x4C : Offset).toNat = 0x20 + 4 * (11 : Fin 12).val ∧
    (0x20 : Offset).toNat = 0x20 + 4 * (0 : Fin 12).val ∧ (0x00 : Offset).toNat % 4 = 0 ∧
    (0x1C : Offset).toNat < 0x50 ∧ 0x50 ≤ (0x50 : Offset).toNat ∧ (0x4D : Offset).toNat % 4 ≠ 0 := by decide

theorem witness_ErrorAccessChangesNothing :
    ({ State.reset with pending := [.read 4 0x4D] } : State).pending = .read 4 (0x4D : Offset) :: [] ∧
    (0x4D : Offset).toNat % 4 ≠ 0 ∧ 0x50 ≤ (0x50 : Offset).toNat ∧
    ({ State.reset with pending := [.write 4 0x04 0x70000000] } : State).pending =
      .write 4 (0x04 : Offset) 0x70000000 :: [] ∧ (0x04 : Offset) ≠ 0x00 := by decide

theorem witness_OtherWidthAccessChangesNothing : (2 : Nat) ≠ 4 ∧ (8 : Nat) ≠ 4 ∧
    ({ State.reset with pending := [.read 2 0x04] } : State).pending = .read 2 (0x04 : Offset) :: [] ∧
    ({ State.reset with pending := [.write 2 0x00 0x70000000] } : State).pending =
      .write 2 (0x00 : Offset) 0x70000000 :: [] := by decide

theorem witness_ReadsIdempotentWritesNot :
    (∃ t u, step { State.reset with pending := [.read 4 0x04, .read 4 0x04] } = .next t ∧ step t = .next u) ∧
    ((staged refCal).calv = false ∧ (staged refCal).smask = 0xFFF#12 ∧ ∃ t, exec .commit (staged refCal) = .next t) ∧
    (TempEnabled (loaded refCal) ∧ ∃ t, exec .compt (loaded refCal) = .next t) :=
  ⟨⟨_, _, rfl, rfl⟩, ⟨by decide, by decide, _, rfl⟩, ⟨by decide, _, rfl⟩⟩

theorem witness_ResetGivesEveryRegisterItsValue :
    ({ measured refCal with pending := [.reset] } : State).pending = .reset :: [] := by decide

theorem witness_FirstCauseIsReported : causeOf 0x1F010000 State.reset = some .rsvdField ∧
    causeOf 0x1C000000 (committed refCal) = some .badIndex ∧ causeOf 0x60000000 State.reset = some .noCal ∧
    causeOf 0x70000000 State.reset = none := by decide

theorem witness_RejectedWriteChangesOnlyErrcode :
    (issueCommand 0x80000000 State.reset).pending = .write 4 0x00 0x80000000 :: [] ∧
    causeOf 0x80000000 (issueCommand 0x80000000 State.reset) = some .illegalOpcode := by decide

theorem witness_ErrcodeAfterCommand : (∃ t, execute 0x70000000 State.reset = .next t) ∧
    causeOf 0x70000000 State.reset = none ∧ (∃ t, execute 0x80000000 State.reset = .next t) :=
  ⟨⟨_, rfl⟩, by decide, ⟨_, rfl⟩⟩

theorem witness_NopHasNoEffect : (0x0FFFFFFF#32).toNat < 2 ^ 28 ∧ 0x0FFFFFFF#32 ≠ 0 ∧ 0x00000001#32 ≠ 0 := by decide

theorem witness_ClrerrClearsOnlyErrcode :
    (0x70000001#32).toNat / 2 ^ 28 = 7 ∧ (0x70000001#32).toNat % 2 ^ 28 ≠ 0 := by decide

theorem witness_LdrawtLoadsRawT :
    (0x31000000#32).toNat / 2 ^ 28 = 3 ∧ (0x31000000#32).toNat / 2 ^ 24 % 16 ≠ 0 ∧
    (0x30FFFFFF#32).toNat / 2 ^ 28 = 3 ∧ (0x30FFFFFF#32).toNat / 2 ^ 24 % 16 = 0 := by decide

theorem witness_LdrawpLoadsRawP :
    (0x4F655AC0#32).toNat / 2 ^ 28 = 4 ∧ (0x4F655AC0#32).toNat / 2 ^ 24 % 16 ≠ 0 ∧
    (0x40000000#32).toNat / 2 ^ 28 = 4 ∧ (0x40000000#32).toNat / 2 ^ 24 % 16 = 0 := by decide

theorem witness_WrcalStagesOneEntry : (11 : Nat) < 12 ∧ State.reset.calv = false ∧ (12 : Nat) ≤ 12 ∧
    (committed refCal).calv = true ∧
    ((0x10010000#32).toNat / 2 ^ 28 = 1 ∧ (0x10010000#32).toNat / 2 ^ 16 % 256 ≠ 0) ∧
    ((0x1B00FFFF#32).toNat / 2 ^ 28 = 1 ∧ (0x1B00FFFF#32).toNat / 2 ^ 16 % 256 = 0) := by decide

theorem witness_CommitActivatesStagedSet : ((staged refCal).calv = false ∧ (staged refCal).smask = 0xFFF#12) ∧
    (committed refCal).calv = true ∧ (State.reset.calv = false ∧ State.reset.smask ≠ 0xFFF#12) ∧
    ((0x20000001#32).toNat / 2 ^ 28 = 2 ∧ (0x20000001#32).toNat % 2 ^ 28 ≠ 0) := by decide

theorem witness_ComptWritesTemperature : ((loaded refCal).calv = true ∧ (loaded refCal).rawtv = true) ∧
    State.reset.calv = false ∧ ((committed refCal).calv = true ∧ (committed refCal).rawtv = false) ∧
    ((0x5FFFFFFF#32).toNat / 2 ^ 28 = 5 ∧ (0x5FFFFFFF#32).toNat % 2 ^ 28 ≠ 0) := by decide

theorem witness_ComppWritesPressure :
    ((measured refCal).calv = true ∧ (measured refCal).rawpv = true ∧ (measured refCal).finev = true) ∧
    State.reset.calv = false ∧ ((committed refCal).calv = true ∧ (committed refCal).rawpv = false) ∧
    ((loaded refCal).calv = true ∧ (loaded refCal).rawpv = true ∧ (loaded refCal).finev = false) ∧
    ((0x60000001#32).toNat / 2 ^ 28 = 6 ∧ (0x60000001#32).toNat % 2 ^ 28 ≠ 0) := by decide

theorem witness_TemperatureMatchesListing : TempEnabled (loaded refCal) := by decide

/-- Both clauses: the sentinel with coefficient P1 = 0, and a pressure. -/
theorem witness_PressureMatchesListing : PressEnabled (measured refCal) ∧
    PressEnabled (measured (refCal.set 3 0)) ∧
    listingPress (measured (refCal.set 3 0)).rawP (measured (refCal.set 3 0)).fine (measured (refCal.set 3 0)).cal =
      none ∧
    listingPress (measured refCal).rawP (measured refCal).fine (measured refCal).cal = some 100656 := by decide

theorem witness_TemperatureExactWithoutOverflow : TempEnabled (loaded refCal) ∧
    ∃ t, exec .compt (loaded refCal) = .next t ∧ t.ovft = false :=
  ⟨by decide, _, rfl, by decide⟩

/-- Both sides of the equivalence: no step leaves the range, and step f does (R62: T1 = 65535 and a raw code of 0). -/
theorem witness_TemperatureOverflowSteps :
    (TempEnabled (loaded refCal) ∧ ∃ t, exec .compt (loaded refCal) = .next t ∧ t.ovft = false) ∧
    (TempEnabled (loadRawT 0 (loaded (refCal.set 0 0xFFFF))) ∧
      ∃ t, exec .compt (loadRawT 0 (loaded (refCal.set 0 0xFFFF))) = .next t ∧ t.ovft = true) :=
  ⟨⟨by decide, _, rfl, by decide⟩, ⟨by decide, _, rfl, by decide⟩⟩

theorem witness_TemperatureRoundsToNearest :
    TempEnabled (loaded refCal) ∧ ∃ t, exec .compt (loaded refCal) = .next t :=
  ⟨by decide, _, rfl⟩

/-- Both clauses: the denominator 0 and a positive one, each with OVFP = 0. -/
theorem witness_PressureExactWithoutOverflow :
    (PressEnabled (measured refCal) ∧
      ∃ t, exec .compp (measured refCal) = .next t ∧ t.ovfp = false ∧ t.pinv = false) ∧
    (PressEnabled (measured (refCal.set 3 0)) ∧
      ∃ t, exec .compp (measured (refCal.set 3 0)) = .next t ∧ t.ovfp = false ∧ t.pinv = true) :=
  ⟨⟨by decide, _, rfl, by decide⟩, ⟨by decide, _, rfl, by decide⟩⟩

/-- No overflow, on the sentinel and past it; an overflow of step 2 (vector P12's FINE), on the sentinel and past it; an
overflow of steps 10 and 11 alone (vector P9). -/
theorem witness_PressureOverflowSteps :
    (PressEnabled (measured refCal) ∧ ∃ t, exec .compp (measured refCal) = .next t ∧ t.ovfp = false) ∧
    (PressEnabled (measured (refCal.set 3 0)) ∧
      ∃ t, exec .compp (measured (refCal.set 3 0)) = .next t ∧ t.pinv = true ∧ t.ovfp = false) ∧
    (PressEnabled (fine12 refCal) ∧ ∃ t, exec .compp (fine12 refCal) = .next t ∧ t.pinv = false ∧ t.ovfp = true) ∧
    (PressEnabled (fine12 (refCal.set 3 0)) ∧
      ∃ t, exec .compp (fine12 (refCal.set 3 0)) = .next t ∧ t.pinv = true ∧ t.ovfp = true) ∧
    (PressEnabled (fine9 refCal) ∧ (pressPoly (fine9 refCal).fine.toInt (fine9 refCal).cal).ovf = false ∧
      ∃ t, exec .compp (fine9 refCal) = .next t ∧ t.pinv = false ∧ t.ovfp = true) :=
  ⟨⟨by decide, _, rfl, by decide⟩, ⟨by decide, _, rfl, by decide, by decide⟩,
    ⟨by decide, _, rfl, by decide, by decide⟩, ⟨by decide, _, rfl, by decide, by decide⟩,
    ⟨by decide, by decide, _, rfl, by decide, by decide⟩⟩

/-- A negative denominator (vector P7). -/
theorem witness_DenominatorZeroAndSign : (pressPoly 0 (refCal.set 3 0xFFFF)).v1Step6 < 0 := by decide

theorem witness_GuardedDivision :
    ((0 : Int) ≤ 2147483647 ∧ (2147483647 : Int) < 2147483648 ∧ (-2147483648 : Int) ≤ -2147483648 ∧
      (-2147483648 : Int) ≠ 0) ∧
    ((2147483648 : Int) ≤ 4294967295 ∧ (1 : Int) ≠ 0 ∧ 2147483648 ≤ (4294967295 : Int) / u32 1) ∧
    ((2147483648 : Int) ≤ 2147483648 ∧ (-1 : Int) < 0) := by decide

theorem witness_CorrectionOperandsInRange : (0 : Int) ≤ 4294967295 ∧ (4294967295 : Int) ≤ 4294967295 := by decide

/-- Two states that differ in their pressure coefficients, raw pressure and FINE. -/
theorem witness_TemperatureDependsOnlyOnInputs :
    (TempEnabled (loaded refCal) ∧ TempEnabled (measured (refCal.set 3 0)) ∧
      (loaded refCal).rawT = (measured (refCal.set 3 0)).rawT ∧
      (loaded refCal).cal[0] = (measured (refCal.set 3 0)).cal[0] ∧
      (loaded refCal).cal[1] = (measured (refCal.set 3 0)).cal[1] ∧
      (loaded refCal).cal[2] = (measured (refCal.set 3 0)).cal[2]) ∧
    (∃ t, exec .compt (loaded refCal) = .next t) ∧ ∃ t, exec .compt (measured (refCal.set 3 0)) = .next t :=
  ⟨by decide, ⟨_, rfl⟩, ⟨_, rfl⟩⟩

/-- Two states that differ in a temperature coefficient and ERRCODE. -/
theorem witness_PressureDependsOnlyOnInputs :
    (PressEnabled (measured refCal) ∧ PressEnabled (reject .calLocked (measured (refCal.set 0 0))) ∧
      (measured refCal).rawP = (reject .calLocked (measured (refCal.set 0 0))).rawP ∧
      (measured refCal).fine = (reject .calLocked (measured (refCal.set 0 0))).fine ∧
      ∀ k : Fin 12, 3 ≤ k.val → (measured refCal).cal[k] = (reject .calLocked (measured (refCal.set 0 0))).cal[k]) ∧
    (∃ t, exec .compp (measured refCal) = .next t) ∧
      ∃ t, exec .compp (reject .calLocked (measured (refCal.set 0 0))) = .next t :=
  ⟨by decide, ⟨_, rfl⟩, ⟨_, rfl⟩⟩

theorem witness_InvalidReadingIsResult :
    (PressEnabled (measured (refCal.set 3 1)) ∧
      (pressPoly (measured (refCal.set 3 1)).fine.toInt (measured (refCal.set 3 1)).cal).v1Step6 = 0) ∧
    (PressEnabled (measured refCal) ∧
      (pressPoly (measured refCal).fine.toInt (measured refCal).cal).v1Step6 ≠ 0) := by decide

theorem witness_PoutIsScaledPcomp : PressEnabled (measured (refCal.set 3 0)) ∧
    ∃ t, exec .compp (measured (refCal.set 3 0)) = .next t ∧ t.pinv = true :=
  ⟨by decide, _, rfl, by decide⟩

/-- A state after a COMMIT and a COMPT meets the invariant, and has a command to run. -/
theorem witness_StepKeepsInv : (issueCommand 0x60000000 (measured refCal)).Inv ∧
    ∃ t, step (issueCommand 0x60000000 (measured refCal)) = .next t :=
  ⟨⟨by decide, by decide, by decide, by decide, by decide, by decide, by decide, by decide, by decide, by decide,
    by decide, by decide, by decide, by decide⟩, _, rfl⟩

theorem witness_CommittedSetIsImmutable : (issueCommand 0x10000000 (committed refCal)).calv = true ∧
    HostTxn.reset ∉ (issueCommand 0x10000000 (committed refCal)).pending ∧
    ∃ t, Host.Core.run Sys2Proof.core 1 (issueCommand 0x10000000 (committed refCal)) = .next t :=
  ⟨by decide, by decide, _, rfl⟩

theorem witness_OnlyResetClearsValidFlags : HostTxn.reset ∉ (issueCommand 0x60000000 (measured refCal)).pending ∧
    (∃ t, Host.Core.run Sys2Proof.core 1 (issueCommand 0x60000000 (measured refCal)) = .next t) ∧
    (measured refCal).calv = true ∧ (measured refCal).rawtv = true ∧ (measured refCal).rawpv = true ∧
    (measured refCal).finev = true ∧ ({ measured refCal with presv := true } : State).presv = true ∧
    (measured refCal).smask.getLsbD 11 = true :=
  ⟨by decide, ⟨_, rfl⟩, by decide, by decide, by decide, by decide, by decide, by decide⟩

/-- A command that completes, and one that is rejected. -/
theorem witness_OnlyTheirCommandsWriteRegisters :
    ((∃ t, exec .nop (measured refCal) = .next t) ∧ (∀ k lo hi, Instr.nop ≠ .wrcal k lo hi) ∧
      (∀ a b c, Instr.nop ≠ .ldrawt a b c) ∧ (∀ a b c, Instr.nop ≠ .ldrawp a b c) ∧ Instr.nop ≠ .commit ∧
      Instr.nop ≠ .compt ∧ Instr.nop ≠ .compp ∧ Instr.nop ≠ .clrerr) ∧
    ∃ t, exec .commit (measured refCal) = .next t ∧ t.errcode ≠ (measured refCal).errcode :=
  ⟨⟨⟨_, rfl⟩, by simp, by simp, by simp, by decide, by decide, by decide, by decide⟩, _, rfl, by decide⟩

theorem witness_CalibrationBytesRoundTrip : State.reset.calv = false := by decide

theorem witness_CalsetActivatesCoefficients : (staged refCal).calv = false := by decide

theorem witness_MeasureUsesItsOwnTemperature :
    (loaded refCal).calv = true ∧ (loaded refCal).rawtv = true ∧ (loaded refCal).rawpv = true := by decide

theorem witness_PressureIgnoresReloadedRawT : ∃ t, exec (.ldrawt 0 0 0) (measured refCal) = .next t :=
  ⟨_, rfl⟩

end Sys2Proof.Tests
end

section
/-! PROOFS. State: what STATUS, ERRCODE, POUT and the coefficients' readings are after a command, for every state
(spec/10_state.md R17, R25, R29, R30). -/

namespace Sys2Proof.Machine

/-! ### STATUS -/

@[simp] theorem flagBit_toNat (b : Bool) : (flagBit b).toNat = b.toNat := BitVec.toNat_ofBool b

/-- Settles O16: an append is a sum at the weight of its upper part, field by field. -/
theorem statusLayout : Obligations.StatusLayout := by
  intro s
  simp only [statusWord, append_toNat, flagBit_toNat, BitVec.toNat_ofNat]
  omega

/-! ### The coefficients' readings -/

/-- A signed reading by halves of the pattern's range: the upper half stands for the negative values (R6). -/
theorem sext16_eq_ite (b : Half) :
    sext16 b = if b.toNat < 32768 then (b.toNat : Int) else (b.toNat : Int) - 65536 := by
  simp only [sext16, BitVec.toInt_eq_toNat_cond]
  split <;> split <;> omega

/-- An unsigned reading lies in the range R17 gives for coefficients. -/
theorem zext16_coefRange (b : Half) : -32768 ≤ zext16 b ∧ zext16 b ≤ 65535 := by
  have := zext16_bounds b
  omega

/-- And so does a signed one. -/
theorem sext16_coefRange (b : Half) : -32768 ≤ sext16 b ∧ sext16 b ≤ 65535 := by
  have := sext16_bounds b
  omega

/-- Settles O29: every coefficient is one of the two readings of its entry, and both readings have the range. -/
theorem coefficientReadings : Obligations.CoefficientReadings := by
  intro cal
  simp only [coefT1, coefT2, coefT3, coefP1, coefP2, coefP3, coefP4, coefP5, coefP6, coefP7, coefP8, coefP9]
  constructor
  · simp only [sext16_eq_ite, zext16]
  · simp only [List.forall_mem_cons, zext16_coefRange, sext16_coefRange, List.not_mem_nil, false_implies,
      implies_true, and_self]

/-! ### POUT -/

/-- CompP's output is its pressure scaled modulo 2^32; the sentinel's 0 is 0 scaled (R25). -/
theorem compP_pout (raw : Raw) (fine : Int) (cal : CalFile) :
    (compP raw fine cal).pout = u32 ((compP raw fine cal).pcomp * Config.poutScale) := by
  by_cases h : (pressPoly fine cal).v1Step6 = 0
  · rw [compP_of_zero h]; rfl
  · rw [compP_of_ne_zero h]

/-- On the sentinel CompP's output is 0 (R25, R78). -/
theorem compP_pout_of_inv {raw : Raw} {fine : Int} {cal : CalFile} (hi : (compP raw fine cal).inv = true) :
    (compP raw fine cal).pout = 0 := by
  by_cases h : (pressPoly fine cal).v1Step6 = 0
  · rw [compP_of_zero h]
  · rw [compP_of_ne_zero h] at hi; cases hi

/-- A register's pattern as a number is the integer put into it modulo 2^32. -/
theorem toReg_toNat (v : Int) : ((toReg v).toNat : Int) = u32 v := asU_toReg v

/-- Settles O42: an enabled COMPP stores CompP's results, and scaling commutes with the narrowing of PCOMP. -/
theorem poutIsScaledPcomp : Obligations.PoutIsScaledPcomp := by
  rintro s t ⟨hc, hr, hf⟩ h
  change execCompp s = .next t at h
  rw [execCompp_enabled hc hr hf] at h
  obtain rfl := Host.Outcome.next.inj h
  simp only [storePress_pout, storePress_pcomp, storePress_pinv]
  constructor
  · have hpo := toReg_toNat (compP s.rawP (asS s.fine) s.cal).pout
    have hpc := toReg_toNat (compP s.rawP (asS s.fine) s.cal).pcomp
    rw [compP_pout] at hpo ⊢
    simp only [u32, Config.poutScale] at hpo hpc ⊢
    omega
  · intro hi
    rw [compP_pout_of_inv hi]
    rfl

/-! ### Causes of rejection

R76's table follows from the decoder and the commands: a word's causes are the decoder's, then those of the command. -/

/-- The checks of a command's own meaning, after those of the decoder, in R76's order. -/
def causesOfInstr (i : Instr) (s : State) : List (Bool × Rejection) :=
  match i with
  | .wrcal k _ _ => [(decide (12 ≤ k), .badIndex), (s.calv, .calLocked)]
  | .commit => [(s.calv, .calLocked), (decide (s.smask ≠ 0xFFF#12), .calIncomplete)]
  | .compt => [(!s.calv, .noCal), (!s.rawtv, .noRaw)]
  | .compp => [(!s.calv, .noCal), (!s.rawpv, .noRaw), (!s.finev, .noFine)]
  | .nop | .ldrawt _ _ _ | .ldrawp _ _ _ | .clrerr => []

/-- What a decoder's answer is rejected for in a state, if it is. -/
def causeOfDecoded (s : State) : Decoded → Option Rejection
  | .rejected e => some e
  | .command i => firstCause (causesOfInstr i s)

@[simp] theorem firstCause_nil : firstCause [] = none := rfl

@[simp] theorem firstCause_cons (b : Bool) (e : Rejection) (rest : List (Bool × Rejection)) :
    firstCause ((b, e) :: rest) = if b then some e else firstCause rest := by
  cases b <;> rfl

/-- A field as a number is 0 exactly when the field is. -/
theorem decide_toNat_ne_zero {n : Nat} (x : BitVec n) : decide (x.toNat ≠ 0) = decide (x ≠ 0) := by
  simp [← BitVec.toNat_inj]

/-- A field check of the decoder comes before the command's own checks (R52, R76). -/
theorem causeOfDecoded_ite (s : State) (p : Prop) [Decidable p] (e : Rejection) (i : Instr) :
    causeOfDecoded s (if p then .rejected e else .command i) = firstCause ((decide p, e) :: causesOfInstr i s) := by
  by_cases h : p <;> simp [h, causeOfDecoded]

/-- R76's table, read from the word as numbers, names the cause the decoder and the command's meaning find: opcode by
opcode, the table's row is the decoder's field check followed by the command's own checks. -/
theorem causeOf_eq_causeOfDecoded (w : Word) (s : State) : causeOf w s = causeOfDecoded s (decode w) := by
  unfold decode
  split <;>
    simp only [causeOf, checks, ← fieldOp_toNat, ← fieldIdx_toNat, ← fieldB2_toNat, ← fieldBody_toNat,
      decide_toNat_ne_zero, decodePlain, causeOfDecoded_ite]
  case h_9 =>
    have : 8 ≤ (fieldOp w).toNat := by grind
    simp [this, causeOfDecoded]
  all_goals next hop => simp [hop, causesOfInstr]

/-- CLRERR has one word (R51, R71). -/
theorem decode_eq_clrerr_iff (w : Word) : decode w = .command .clrerr ↔ w = 0x70000000 := by
  constructor
  · intro h
    unfold decode at h
    split at h
    case h_8 hop =>
      obtain ⟨hbody, -⟩ := decodePlain_command h
      have hn : 0 = w.toNat % 2 ^ 28 := by rw [← fieldBody_toNat, hbody]; rfl
      rw [fieldOp_toNat] at hop
      apply BitVec.eq_of_toNat_eq
      change w.toNat = 0x70000000
      omega
    case h_2 | h_4 | h_5 => split at h <;> cases h
    case h_9 => cases h
    all_goals cases (decodePlain_command h).2
  · rintro rfl
    decide

variable {s t : State}

/-- A command is rejected for the first cause of its own that applies and changes nothing but ERRCODE (R72, R76), or no
cause applies and ERRCODE is cleared by CLRERR and kept by every other command (R29). -/
theorem exec_rejects_or_completes {i : Instr} (h : exec i s = .next t) :
    (∃ e, firstCause (causesOfInstr i s) = some e ∧ t = reject e s) ∨
      (firstCause (causesOfInstr i s) = none ∧ t.errcode = if i = .clrerr then 0 else s.errcode) := by
  cases i with
  | nop | ldrawt | ldrawp | clrerr => obtain rfl := Host.Outcome.next.inj h; exact .inr ⟨rfl, rfl⟩
  | wrcal k lo hi =>
    obtain ⟨hk, rfl⟩ | ⟨hk, hc, rfl⟩ | ⟨hk, hc, rfl⟩ := execWrcal_cases h
    · exact .inl ⟨.badIndex, by simp [causesOfInstr, hk], rfl⟩
    · exact .inl ⟨.calLocked, by simp [causesOfInstr, hk, hc], rfl⟩
    · exact .inr ⟨by simp [causesOfInstr, hk, hc], rfl⟩
  | commit =>
    obtain ⟨hc, rfl⟩ | ⟨hc, hm, rfl⟩ | ⟨hc, hm, rfl⟩ := execCommit_cases h
    · exact .inl ⟨.calLocked, by simp [causesOfInstr, hc], rfl⟩
    · exact .inl ⟨.calIncomplete, by simp [causesOfInstr, hc, hm], rfl⟩
    · exact .inr ⟨by simp [causesOfInstr, hc, hm], rfl⟩
  | compt =>
    obtain ⟨hc, rfl⟩ | ⟨hc, hr, rfl⟩ | ⟨hc, hr, rfl⟩ := execCompt_cases h
    · exact .inl ⟨.noCal, by simp [causesOfInstr, hc], rfl⟩
    · exact .inl ⟨.noRaw, by simp [causesOfInstr, hc, hr], rfl⟩
    · exact .inr ⟨by simp [causesOfInstr, hc, hr], by simp⟩
  | compp =>
    obtain ⟨hc, rfl⟩ | ⟨hc, hr, rfl⟩ | ⟨hc, hr, hf, rfl⟩ | ⟨hc, hr, hf, rfl⟩ := execCompp_cases h
    · exact .inl ⟨.noCal, by simp [causesOfInstr, hc], rfl⟩
    · exact .inl ⟨.noRaw, by simp [causesOfInstr, hc, hr], rfl⟩
    · exact .inl ⟨.noFine, by simp [causesOfInstr, hc, hr, hf], rfl⟩
    · exact .inr ⟨by simp [causesOfInstr, hc, hr, hf], by simp⟩

/-- The same of a word: rejected for its first cause, or completed (R29, R72, R76). -/
theorem execute_rejects_or_completes {w : Word} (h : execute w s = .next t) :
    (∃ e, causeOf w s = some e ∧ t = reject e s) ∨
      (causeOf w s = none ∧ t.errcode = if w = 0x70000000 then 0 else s.errcode) := by
  simp only [causeOf_eq_causeOfDecoded, ← decode_eq_clrerr_iff]
  obtain ⟨i, hd, hi⟩ | ⟨e, hd, rfl⟩ := execute_cases h
  · simpa [hd, causeOfDecoded] using exec_rejects_or_completes hi
  · exact .inl ⟨e, by rw [hd]; rfl, rfl⟩

/-- Settles O20: a word is rejected for its first cause or completes, and the reset event restores ERRCODE's 0. -/
theorem errcodeAfterCommand : Obligations.ErrcodeAfterCommand := by
  refine ⟨fun w s t h => ?_, fun s => rfl⟩
  obtain ⟨e, hc, rfl⟩ | ⟨hc, ht⟩ := execute_rejects_or_completes h
  · rw [hc]; rfl
  · rw [hc]; exact ht

end Sys2Proof.Machine
end

section
/-! PROOFS. Memory: what the host window answers to reads and to error accesses, and what repeating a read, a COMMIT or
a COMPT does (spec/20_memory.md R35, R36, R38, R46). -/

namespace Sys2Proof.Machine

variable {s t : State} {off : Offset} {rest : List HostTxn}

/-! ### The register map -/

/-- The offsets without a register: the misaligned and the reserved ones (R35, R38). -/
theorem windowReg_eq_none_iff (off : Offset) : windowReg off = none ↔ off.toNat % 4 ≠ 0 ∨ 0x50 ≤ off.toNat := by
  revert off
  decide

/-- Every register of the window is found at its offset (R35). -/
@[simp] theorem windowReg_regOffset (r : WindowReg) : windowReg (regOffset r) = some r := by
  cases r with
  | cal k => revert k; decide
  | _ => rfl

/-- The offset of a CAL entry as a number. -/
theorem eq_regOffset_cal {k : Fin 12} (h : off.toNat = 0x20 + 4 * k.val) : off = regOffset (.cal k) := by
  apply BitVec.eq_of_toNat_eq
  simp only [regOffset, BitVec.toNat_ofNat]
  omega

/-! ### Reads -/

theorem hostRead_of_mapped {r : WindowReg} (h : windowReg off = some r) :
    hostRead off s = (.OK, windowContent s r) := by
  simp [hostRead, h]

theorem hostRead_of_unmapped (h : windowReg off = none) : hostRead off s = (.ERR, 0) := by
  simp [hostRead, h]

/-- The answer to a read of any width (R36, R39). -/
def readReply (width : Nat) (off : Offset) (s : State) : Reply :=
  if width ≠ 4 then .plain .ERR else .data (hostRead off s).1 (hostRead off s).2

@[simp] theorem readReply_four : readReply 4 off s = .data (hostRead off s).1 (hostRead off s).2 := rfl

/-- A read sees registers only: neither the waiting transactions nor the last answer. -/
@[simp] theorem readReply_withPending (width : Nat) (ts : List HostTxn) :
    readReply width off (withPending ts s) = readReply width off s := rfl

@[simp] theorem readReply_respond (width : Nat) (a : Reply) :
    readReply width off (respond a s) = readReply width off s := rfl

/-- A read of any width and offset gives its answer and does nothing else. -/
theorem serve_read (width : Nat) (off : Offset) (s : State) :
    serve (.read width off) s = .next (respond (readReply width off s) s) := by
  simp only [serve, readReply]
  split <;> rfl

theorem step_read {width : Nat} (hp : s.pending = .read width off :: rest) :
    step s = .next (respond (readReply width off s) (withPending rest s)) := by
  rw [step_of_pending hp, serve_read, readReply_withPending]

/-- A word read of a mapped offset is answered OK and the register's content (R36). -/
theorem step_read_mapped {r : WindowReg} (hp : s.pending = .read 4 off :: rest) (h : windowReg off = some r) :
    step s = .next (respond (.data .OK (windowContent s r)) (withPending rest s)) := by
  rw [step_read hp, readReply_four, hostRead_of_mapped h]

/-- A word read of a misaligned or reserved offset is answered ERR and 0 (R36, R38). -/
theorem step_read_unmapped (hp : s.pending = .read 4 off :: rest) (h : off.toNat % 4 ≠ 0 ∨ 0x50 ≤ off.toNat) :
    step s = .next (respond (.data .ERR 0) (withPending rest s)) := by
  rw [step_read hp, readReply_four, hostRead_of_unmapped ((windowReg_eq_none_iff off).2 h)]

/-- Settles O11: the offset either has no register or has one, whose content is the answer. -/
theorem hostReadAnswersRegister : Obligations.HostReadAnswersRegister := by
  intro s rest off hp
  refine ⟨step_read_unmapped hp, fun hal hlt => ?_⟩
  have hmapped : windowReg off ≠ none := by
    rw [Ne, windowReg_eq_none_iff]
    omega
  obtain ⟨r, hr⟩ := Option.ne_none_iff_exists'.1 hmapped
  have hread : ∀ r', off = regOffset r' → windowContent s r = windowContent s r' := by
    rintro r' rfl
    rw [windowReg_regOffset] at hr
    rw [Option.some.inj hr]
  refine ⟨windowContent s r, step_read_mapped hp hr, hread .cmd, hread .status, hread .fine, hread .temp,
    hread .pcomp, hread .pout, fun h => ?_, fun h => ?_, fun k h => ?_⟩
  · rw [hread .rawT h]
    exact BitVec.toNat_setWidth_of_le (by decide)
  · rw [hread .rawP h]
    exact BitVec.toNat_setWidth_of_le (by decide)
  · rw [hread (.cal k) (eq_regOffset_cal h)]
    exact BitVec.toNat_setWidth_of_le (by decide)

/-! ### Error accesses -/

/-- A write anywhere but to CMD is answered ERR and executes nothing (R38). -/
theorem step_write_of_ne_cmd {w : Word} (hp : s.pending = .write 4 off w :: rest) (hoff : off ≠ 0) :
    step s = .next (respond (.plain .ERR) (withPending rest s)) := by
  have hcmd : windowReg off ≠ some .cmd := mt (windowReg_eq_cmd_iff off).1 hoff
  simp [step_of_pending hp, serve, hostWrite, hcmd]

/-- Settles O12: an error read finds no register, and an error write does not reach CMD. -/
theorem errorAccessChangesNothing : Obligations.ErrorAccessChangesNothing :=
  fun _ _ _ => ⟨step_read_unmapped, fun _ => step_write_of_ne_cmd⟩

/-! ### Repetition -/

theorem execCommit_locked (hc : s.calv = true) : execCommit s = .next (reject .calLocked s) := by
  simp [execCommit, hc]

theorem execCommit_enabled (hc : s.calv = false) (hm : s.smask = 0xFFF#12) :
    execCommit s = .next (activateStage s) := by
  simp [execCommit, hc, hm]

theorem storeTemp_storeTemp (f c : Int) (o : Bool) (s : State) :
    storeTemp f c o (storeTemp f c o s) = storeTemp f c o s := (rfl)

/-- The second of two equal reads leaves everything, its answer included, as the first left it (R46). -/
theorem step_read_read {u : State} {width : Nat} (hp : s.pending = .read width off :: .read width off :: rest)
    (ht : step s = .next t) (hu : step t = .next u) :
    t = respond (readReply width off s) (withPending (.read width off :: rest) s) ∧ u = withPending rest t := by
  rw [step_read hp] at ht
  obtain rfl := Host.Outcome.next.inj ht
  rw [step_read (s := respond _ (withPending (.read width off :: rest) s)) rfl,
    readReply_respond, readReply_withPending] at hu
  obtain rfl := Host.Outcome.next.inj hu
  exact ⟨rfl, rfl⟩

/-- A completed COMPT changes none of its inputs, so a second one stores the same results over them (R46, R62). -/
theorem execCompt_execCompt (he : TempEnabled s) (h : execCompt s = .next t) : execCompt t = .next t := by
  obtain ⟨hc, hr⟩ := he
  rw [execCompt_enabled hc hr] at h
  obtain rfl := Host.Outcome.next.inj h
  rw [execCompt_enabled (by simpa using hc) (by simpa using hr), storeTemp_rawT, storeTemp_cal, storeTemp_storeTemp]

/-- Settles O14: a read only answers, a COMMIT locks the set, and a COMPT leaves its own inputs. -/
theorem readsIdempotentWritesNot : Obligations.ReadsIdempotentWritesNot := by
  refine ⟨fun s t u rest width off hp ht hu => ?_, fun s t hc hm h => ?_, fun s t => execCompt_execCompt⟩
  · obtain ⟨rfl, rfl⟩ := step_read_read hp ht hu
    exact ⟨rfl, rfl⟩
  · change execCommit s = .next t at h
    rw [execCommit_enabled hc hm] at h
    obtain rfl := Host.Outcome.next.inj h
    exact execCommit_locked (activateStage_calv s)

end Sys2Proof.Machine
end

section
/-! PROOFS. Encoding: what the decoder answers for each opcode, with the fields as numbers of the word, and what
executing the word does (spec/30_encoding.md R48, R50, R52). -/

namespace Sys2Proof.Machine

variable {w : Word} {i : Instr} {e : Rejection} {s : State}

/-! ### Executing a decoded word -/

theorem execute_of_command (hd : decode w = .command i) : execute w s = exec i s := by
  rw [execute, hd]

theorem execute_of_rejected (hd : decode w = .rejected e) : execute w s = .next (reject e s) := by
  rw [execute, hd]

/-- A word whose opcode checks the field `n` is rejected when the field is set. -/
theorem execute_of_field_ne_zero {n : Nat} (hd : decode w = if n ≠ 0 then .rejected .rsvdField else .command i)
    (hn : n ≠ 0) : execute w s = .next (reject .rsvdField s) :=
  execute_of_rejected (hd.trans (if_pos hn))

/-- And runs its command when the field is clear. -/
theorem execute_of_field_eq_zero {n : Nat} (hd : decode w = if n ≠ 0 then .rejected .rsvdField else .command i)
    (hn : n = 0) : execute w s = exec i s :=
  execute_of_command (hd.trans (if_neg (not_not_intro hn)))

/-! ### The fields as numbers -/

/-- The decoder compares fields as bit patterns, R52's statement as numbers. -/
theorem ne_zero_iff_toNat_ne_zero {n : Nat} (x : BitVec n) : x ≠ 0 ↔ x.toNat ≠ 0 := by
  simp [← BitVec.toNat_inj]

/-! ### The decoder, opcode by opcode -/

/-- The opcode is checked before any field (R52, R53). -/
theorem decode_of_illegal_op (h : 8 ≤ w.toNat / 2 ^ 28) : decode w = .rejected .illegalOpcode := by
  rw [← fieldOp_toNat] at h
  unfold decode
  split
  case h_9 => rfl
  all_goals omega

theorem decodePlain_eq_ite (w : Word) (i : Instr) :
    decodePlain w i = if w.toNat % 2 ^ 28 ≠ 0 then .rejected .rsvdField else .command i := by
  simp only [decodePlain, ne_zero_iff_toNat_ne_zero, fieldBody_toNat]

/-- The commands without operands, with their opcodes (R49, R51). -/
def plainCommands : List (Nat × Instr) := [(0, .nop), (2, .commit), (5, .compt), (6, .compp), (7, .clrerr)]

/-- All 28 bits beside the opcode are checked (R49). -/
theorem decode_of_op_plain {op : Nat} (hi : (op, i) ∈ plainCommands) (h : w.toNat / 2 ^ 28 = op) :
    decode w = if w.toNat % 2 ^ 28 ≠ 0 then .rejected .rsvdField else .command i := by
  rw [← fieldOp_toNat] at h
  rw [← decodePlain_eq_ite]
  simp only [plainCommands, List.mem_cons, Prod.mk.injEq, List.not_mem_nil, or_false] at hi
  obtain ⟨rfl, rfl⟩ | ⟨rfl, rfl⟩ | ⟨rfl, rfl⟩ | ⟨rfl, rfl⟩ | ⟨rfl, rfl⟩ := hi <;> simp only [decode, h]

/-- Only B2 is checked; the operands are IDX, B0 and B1 (R49, R50). -/
theorem decode_of_op_wrcal (h : w.toNat / 2 ^ 28 = 1) :
    decode w = if w.toNat / 2 ^ 16 % 256 ≠ 0 then .rejected .rsvdField
      else .command (.wrcal (w.toNat / 2 ^ 24 % 16) (BitVec.ofNat 8 (w.toNat % 256))
        (BitVec.ofNat 8 (w.toNat / 2 ^ 8 % 256))) := by
  rw [← fieldOp_toNat] at h
  simp only [decode, h, ne_zero_iff_toNat_ne_zero, ← fieldIdx_toNat, ← fieldB2_toNat, ← fieldB1_toNat,
    ← fieldB0_toNat, BitVec.ofNat_toNat, BitVec.setWidth_eq]

/-- Only IDX is checked; the operands are B2, B1 and the whole of B0 (R49, R50). -/
theorem decode_of_op_ldrawt (h : w.toNat / 2 ^ 28 = 3) :
    decode w = if w.toNat / 2 ^ 24 % 16 ≠ 0 then .rejected .rsvdField
      else .command (.ldrawt (BitVec.ofNat 8 (w.toNat / 2 ^ 16 % 256)) (BitVec.ofNat 8 (w.toNat / 2 ^ 8 % 256))
        (BitVec.ofNat 8 (w.toNat % 256))) := by
  rw [← fieldOp_toNat] at h
  simp only [decode, h, ne_zero_iff_toNat_ne_zero, ← fieldIdx_toNat, ← fieldB2_toNat, ← fieldB1_toNat,
    ← fieldB0_toNat, BitVec.ofNat_toNat, BitVec.setWidth_eq]

theorem decode_of_op_ldrawp (h : w.toNat / 2 ^ 28 = 4) :
    decode w = if w.toNat / 2 ^ 24 % 16 ≠ 0 then .rejected .rsvdField
      else .command (.ldrawp (BitVec.ofNat 8 (w.toNat / 2 ^ 16 % 256)) (BitVec.ofNat 8 (w.toNat / 2 ^ 8 % 256))
        (BitVec.ofNat 8 (w.toNat % 256))) := by
  rw [← fieldOp_toNat] at h
  simp only [decode, h, ne_zero_iff_toNat_ne_zero, ← fieldIdx_toNat, ← fieldB2_toNat, ← fieldB1_toNat,
    ← fieldB0_toNat, BitVec.ofNat_toNat, BitVec.setWidth_eq]

/-! ### R52 -/

/-- Settles O6: an opcode over 7 is illegal, and each of the eight others decodes to its field check with its command
behind it. -/
theorem executeChecksThenDispatches : Obligations.ExecuteChecksThenDispatches := by
  intro w s op idx b2 b1 b0 body
  refine ⟨fun h => execute_of_rejected (decode_of_illegal_op h), fun h hb => ?_,
    fun h => execute_of_field_ne_zero (decode_of_op_wrcal h), fun h hx => ?_,
    fun h => execute_of_field_eq_zero (decode_of_op_plain (by decide) h),
    fun h => execute_of_field_eq_zero (decode_of_op_wrcal h),
    fun h => execute_of_field_eq_zero (decode_of_op_plain (by decide) h),
    fun h => execute_of_field_eq_zero (decode_of_op_ldrawt h),
    fun h => execute_of_field_eq_zero (decode_of_op_ldrawp h),
    fun h => execute_of_field_eq_zero (decode_of_op_plain (by decide) h),
    fun h => execute_of_field_eq_zero (decode_of_op_plain (by decide) h),
    fun h => execute_of_field_eq_zero (decode_of_op_plain (by decide) h)⟩
  · have ⟨i, hi⟩ : ∃ i, (op, i) ∈ plainCommands := by
      obtain h | h | h | h | h := h <;> simp [h, plainCommands]
    exact execute_of_field_ne_zero (decode_of_op_plain hi rfl) hb
  · obtain h | h := h
    · exact execute_of_field_ne_zero (decode_of_op_ldrawt h) hx
    · exact execute_of_field_ne_zero (decode_of_op_ldrawp h) hx

end Sys2Proof.Machine
end

section
/-! PROOFS. Calibration: what WRCAL and COMMIT write and what they are rejected for, as commands and as words
(spec/40_calibration.md R58, R59). -/

namespace Sys2Proof.Machine

variable {k : Nat} {lo hi : Byte} {s : State}

/-! ### WRCAL, case by case -/

theorem execWrcal_badIndex (hk : 12 ≤ k) : execWrcal k lo hi s = .next (reject .badIndex s) :=
  if_pos hk

/-- BAD_INDEX is checked before CAL_LOCKED (R58, R76). -/
theorem execWrcal_of_index_lt (hk : k < 12) : execWrcal k lo hi s =
    if s.calv then .next (reject .calLocked s) else .next (stageEntry k (calValue lo hi) s) :=
  if_neg (Nat.not_le.2 hk)

theorem execWrcal_locked (hk : k < 12) (hc : s.calv = true) :
    execWrcal k lo hi s = .next (reject .calLocked s) := by
  rw [execWrcal_of_index_lt hk, if_pos hc]

theorem execWrcal_enabled (hk : k < 12) (hc : s.calv = false) :
    execWrcal k lo hi s = .next (stageEntry k (calValue lo hi) s) := by
  rw [execWrcal_of_index_lt hk, if_neg (by simp [hc])]

/-! ### The staged entry and its mask bit -/

/-- Within the file, the bounded write of an entry is the plain one. -/
theorem setIfInBounds_eq_set (stage : CalFile) (v : Half) (hk : k < 12) :
    stage.setIfInBounds k v = stage.set k v hk :=
  Vector.ext fun _ hj => by rw [Vector.getElem_setIfInBounds hj, Vector.getElem_set hk hj]

theorem stageEntry_eq_set (v : Half) (hk : k < 12) :
    stageEntry k v s = { s with stage := s.stage.set k v hk, smask := s.smask ||| (1#12 <<< k) } := by
  rw [stageEntry, setIfInBounds_eq_set s.stage v hk]

/-- Setting the bit of entry `k` keeps every other bit of SMASK (R15, R58). -/
theorem maskBit_getLsbD (m : BitVec 12) (hk : k < 12) (j : Nat) :
    (m ||| (1#12 <<< k)).getLsbD j = (decide (j = k) || m.getLsbD j) := by
  rw [← BitVec.twoPow_eq, BitVec.getLsbD_or, BitVec.getLsbD_twoPow, Bool.or_comm]
  simp [hk, eq_comm]

/-- A coefficient's pattern has `hi` above `lo` (R58). -/
theorem calValue_toNat (lo hi : Byte) : (calValue lo hi).toNat = hi.toNat * 2 ^ 8 + lo.toNat :=
  append_toNat hi lo

/-! ### The operands of a WRCAL word -/

/-- A byte of a number does not see what is above it. -/
theorem byte_ofNat_mod (n : Nat) : BitVec.ofNat 8 (n % 256) = BitVec.ofNat 8 n :=
  BitVec.eq_of_toNat_eq (Nat.mod_mod n 256)

/-- Settles O25: the cases of WRCAL's meaning, in the order of its checks, behind the decoder's check of B2. -/
theorem wrcalStagesOneEntry : Obligations.WrcalStagesOneEntry := by
  refine ⟨fun k lo hi s hk hc => ?_, fun _ _ _ _ => execWrcal_badIndex, fun _ _ _ _ => execWrcal_locked,
    fun w s hop => ⟨execute_of_field_ne_zero (decode_of_op_wrcal hop), fun hb => ?_⟩⟩
  · refine ⟨calValue lo hi, s.smask ||| (1#12 <<< k), calValue_toNat lo hi,
      fun j _ => maskBit_getLsbD s.smask hk j, ?_⟩
    exact (execWrcal_enabled hk hc).trans (congrArg _ (stageEntry_eq_set _ hk))
  · rw [execute_of_field_eq_zero (decode_of_op_wrcal hop) hb, byte_ofNat_mod, byte_ofNat_mod]

/-! ### COMMIT -/

theorem execCommit_incomplete (hc : s.calv = false) (hm : s.smask ≠ 0xFFF#12) :
    execCommit s = .next (reject .calIncomplete s) := by
  simp [execCommit, hc, hm]

/-- Settles O26: the cases of COMMIT's meaning, in the order of its checks, behind the decoder's check of the body. -/
theorem commitActivatesStagedSet : Obligations.CommitActivatesStagedSet :=
  ⟨fun _ => execCommit_enabled, fun _ => execCommit_locked, fun _ => execCommit_incomplete,
    fun _ => execute_of_command (by decide),
    fun _ _ hop => execute_of_field_ne_zero (decode_of_op_plain (i := .commit) (by decide) hop)⟩

end Sys2Proof.Machine
end

section
/-! PROOFS. RawLoad: the code three sensor bytes carry, what LDRAWT and LDRAWP write, as commands and as words
(spec/41_raw_load.md R60, R61). -/

namespace Sys2Proof.Machine

/-! ### The code of three bytes -/

/-- The shifted bytes of a code do not overlap, so their disjunction puts them next to each other; of the last byte
only the upper half is left (R60). -/
theorem rawCode_eq_append (msb lsb xlsb : Byte) : rawCode msb lsb xlsb = msb ++ lsb ++ xlsb.extractLsb' 4 4 := by
  apply BitVec.eq_of_getLsbD_eq
  intro i hi
  simp only [rawCode, BitVec.getLsbD_or, BitVec.getLsbD_shiftLeft, BitVec.getLsbD_ushiftRight, BitVec.getLsbD_append,
    BitVec.getLsbD_extractLsb', BitVec.getLsbD_setWidth]
  obtain hxlsb | hlsb | hmsb : i < 4 ∨ (4 ≤ i ∧ i < 12) ∨ 12 ≤ i := by omega
  · grind
  · grind
  · grind

theorem rawCode_toNat (msb lsb xlsb : Byte) :
    (rawCode msb lsb xlsb).toNat = msb.toNat * 2 ^ 12 + lsb.toNat * 2 ^ 4 + xlsb.toNat / 2 ^ 4 := by
  have := xlsb.isLt
  rw [rawCode_eq_append, append_toNat, append_toNat, BitVec.extractLsb'_toNat, Nat.shiftRight_eq_div_pow]
  omega

/-- The code a word carries is its bits 23:4 (R48, R60). -/
theorem rawCode_operands (n : Nat) :
    rawCode (BitVec.ofNat 8 (n / 2 ^ 16 % 256)) (BitVec.ofNat 8 (n / 2 ^ 8 % 256)) (BitVec.ofNat 8 (n % 256)) =
      BitVec.ofNat 20 (n / 2 ^ 4) := by
  apply BitVec.eq_of_toNat_eq
  simp only [rawCode_toNat, BitVec.toNat_ofNat]
  omega

/-! ### The commands -/

theorem exec_ldrawt (msb lsb xlsb : Byte) (s : State) :
    exec (.ldrawt msb lsb xlsb) s = .next (loadRawT (rawCode msb lsb xlsb) s) := rfl

theorem exec_ldrawp (msb lsb xlsb : Byte) (s : State) :
    exec (.ldrawp msb lsb xlsb) s = .next (loadRawP (rawCode msb lsb xlsb) s) := rfl

/-- Settles O23: the command loads the code of its bytes, and the word's operands behind the decoder's check of IDX
carry bits 23:4. -/
theorem ldrawtLoadsRawT : Obligations.LdrawtLoadsRawT := by
  refine ⟨fun msb lsb xlsb _ => ⟨rawCode msb lsb xlsb, rawCode_toNat msb lsb xlsb, exec_ldrawt ..⟩,
    fun w s hop => ⟨execute_of_field_ne_zero (decode_of_op_ldrawt hop), fun hidx => ?_⟩, fun _ => rfl⟩
  rw [execute_of_field_eq_zero (decode_of_op_ldrawt hop) hidx, exec_ldrawt, rawCode_operands, loadRawT]

/-- Settles O24: the same of the pressure code. -/
theorem ldrawpLoadsRawP : Obligations.LdrawpLoadsRawP := by
  refine ⟨fun msb lsb xlsb _ => ⟨rawCode msb lsb xlsb, rawCode_toNat msb lsb xlsb, exec_ldrawp ..⟩,
    fun w s hop => ⟨execute_of_field_ne_zero (decode_of_op_ldrawp hop), fun hidx => ?_⟩, fun _ => rfl⟩
  rw [execute_of_field_eq_zero (decode_of_op_ldrawp hop) hidx, exec_ldrawp, rawCode_operands, loadRawP]

end Sys2Proof.Machine
end

section
/-! PROOFS. Compensation: what COMPT and COMPP write and what they are rejected for, as commands and as words
(spec/42_compensation.md R64, R65). -/

namespace Sys2Proof.Machine

/-! ### Words of the commands without operands -/

/-- With a nonzero field, the word of a command without operands is rejected before the command's own checks (R52,
R76). -/
theorem execute_plain_of_body_ne_zero {i : Instr} {op : Nat} (hi : (op, i) ∈ plainCommands) {w : Word} {s : State}
    (hop : w.toNat / 2 ^ 28 = op) (hb : w.toNat % 2 ^ 28 ≠ 0) : execute w s = .next (reject .rsvdField s) :=
  execute_of_field_ne_zero (decode_of_op_plain hi hop) hb

/-! ### COMPT and COMPP -/

/-- Settles O27: the cases of COMPT's meaning, in the order of its checks, behind the decoder's check of the body. -/
theorem comptWritesTemperature : Obligations.ComptWritesTemperature :=
  ⟨fun _ => execCompt_enabled, fun _ => execCompt_noCal, fun _ => execCompt_noRaw,
    fun _ => execute_of_command (by decide), fun _ _ => execute_plain_of_body_ne_zero (i := .compt) (by decide)⟩

/-- Settles O28: the same of COMPP; the sentinel is among the completions. -/
theorem comppWritesPressure : Obligations.ComppWritesPressure :=
  ⟨fun _ => execCompp_enabled, fun _ => execCompp_noCal, fun _ => execCompp_noRaw, fun _ => execCompp_noFine,
    fun _ => execute_of_command (by decide), fun _ _ => execute_plain_of_body_ne_zero (i := .compp) (by decide)⟩

end Sys2Proof.Machine
end

section
/-! PROOFS. Control: what NOP and CLRERR do, as commands and as words (spec/43_control.md R70, R71). -/

namespace Sys2Proof.Machine

/-! ### The commands -/

theorem exec_nop (s : State) : exec .nop s = .next s := rfl

theorem exec_clrerr (s : State) : exec .clrerr s = .next (clearError s) := rfl

/-! ### The words of opcode 0 -/

/-- A nonzero word of opcode 0 has a nonzero field, since its value is the field's (R48, R70). -/
theorem op_zero_body_ne_zero {w : Word} (hlt : w.toNat < 2 ^ 28) (hw : w ≠ 0) :
    w.toNat / 2 ^ 28 = 0 ∧ w.toNat % 2 ^ 28 ≠ 0 := by
  rw [Nat.mod_eq_of_lt hlt]
  exact ⟨Nat.div_eq_of_lt hlt, (ne_zero_iff_toNat_ne_zero w).1 hw⟩

/-- Settles O21: NOP answers the state it was given, and any other word of opcode 0 fails the decoder's check of the
body. -/
theorem nopHasNoEffect : Obligations.NopHasNoEffect := by
  refine ⟨exec_nop, fun s => (execute_of_command (by decide)).trans (exec_nop s), fun w s hlt hw => ?_⟩
  obtain ⟨hop, hb⟩ := op_zero_body_ne_zero hlt hw
  exact execute_plain_of_body_ne_zero (i := .nop) (by decide) hop hb

/-- Settles O22: CLRERR clears ERRCODE alone, behind the decoder's check of the body. -/
theorem clrerrClearsOnlyErrcode : Obligations.ClrerrClearsOnlyErrcode :=
  ⟨exec_clrerr, fun s => (execute_of_command (by decide)).trans (exec_clrerr s),
    fun _ _ => execute_plain_of_body_ne_zero (i := .clrerr) (by decide)⟩

end Sys2Proof.Machine
end

section
/-! PROOFS. Exceptions: every command answers, a word is rejected for its first cause or completes, what a rejected CMD
write leaves, and the invalid reading as a result (spec/60_exceptions.md R72, R76, R78, R86). -/

namespace Sys2Proof.Machine

variable {w : Word} {e : Rejection} {s : State}

/-! ### Totality -/

/-- Every command yields a next state: each combination of its checks has an answer (R86). -/
theorem exec_total (i : Instr) (s : State) : ∃ t, exec i s = .next t := by
  cases i with
  | nop => exact ⟨_, exec_nop s⟩
  | clrerr => exact ⟨_, exec_clrerr s⟩
  | ldrawt => exact ⟨_, exec_ldrawt ..⟩
  | ldrawp => exact ⟨_, exec_ldrawp ..⟩
  | wrcal k lo hi =>
    obtain hk | hk := Nat.lt_or_ge k 12
    · cases hc : s.calv with
      | true => exact ⟨_, execWrcal_locked hk hc⟩
      | false => exact ⟨_, execWrcal_enabled hk hc⟩
    · exact ⟨_, execWrcal_badIndex hk⟩
  | commit =>
    cases hc : s.calv with
    | true => exact ⟨_, execCommit_locked hc⟩
    | false =>
      by_cases hm : s.smask = 0xFFF#12
      · exact ⟨_, execCommit_enabled hc hm⟩
      · exact ⟨_, execCommit_incomplete hc hm⟩
  | compt =>
    cases hc : s.calv with
    | false => exact ⟨_, execCompt_noCal hc⟩
    | true =>
      cases hr : s.rawtv with
      | false => exact ⟨_, execCompt_noRaw hc hr⟩
      | true => exact ⟨_, execCompt_enabled hc hr⟩
  | compp =>
    cases hc : s.calv with
    | false => exact ⟨_, execCompp_noCal hc⟩
    | true =>
      cases hr : s.rawpv with
      | false => exact ⟨_, execCompp_noRaw hc hr⟩
      | true =>
        cases hf : s.finev with
        | false => exact ⟨_, execCompp_noFine hc hr hf⟩
        | true => exact ⟨_, execCompp_enabled hc hr hf⟩

/-- And so does every word, a rejected one too (R72, R86). -/
theorem execute_total (w : Word) (s : State) : ∃ t, execute w s = .next t := by
  cases hd : decode w with
  | command i => rw [execute_of_command hd]; exact exec_total i s
  | rejected e => exact ⟨_, execute_of_rejected hd⟩

/-! ### The first cause -/

/-- A word to which a cause applies is rejected for the first one (R76). -/
theorem execute_of_cause (h : causeOf w s = some e) : execute w s = .next (reject e s) := by
  obtain ⟨t, ht⟩ := execute_total w s
  obtain ⟨e', he', rfl⟩ | ⟨hnone, -⟩ := execute_rejects_or_completes ht
  · obtain rfl := Option.some.inj (he'.symm.trans h)
    exact ht
  · cases hnone.symm.trans h

/-- A word to which no cause applies passes the decoder's checks and those of its command (R76). -/
theorem decode_of_no_cause (h : causeOf w s = none) :
    ∃ i, decode w = .command i ∧ firstCause (causesOfInstr i s) = none := by
  rw [causeOf_eq_causeOfDecoded] at h
  cases hd : decode w with
  | command i => exact ⟨i, rfl, by rwa [hd] at h⟩
  | rejected e => rw [hd] at h; cases h

/-- Settles O18: the first cause is the rejection; without one the decoded command completes, and a completion other
than CLRERR's keeps ERRCODE. -/
theorem firstCauseIsReported : Obligations.FirstCauseIsReported := by
  refine fun w s => ⟨fun e => execute_of_cause, fun h => ?_⟩
  obtain ⟨i, hd, hi⟩ := decode_of_no_cause h
  obtain ⟨t, ht⟩ := exec_total i s
  refine ⟨i, t, hd, ht, (execute_of_command hd).trans ht, fun hne => ?_⟩
  obtain ⟨e, he, -⟩ | ⟨-, herr⟩ := exec_rejects_or_completes ht
  · cases hi.symm.trans he
  · rw [herr, if_neg hne]

/-! ### The rejected write -/

/-- A write to CMD executes its word and is answered OK (R37). -/
theorem step_write_cmd {rest : List HostTxn} (hp : s.pending = .write 4 0x00 w :: rest) :
    step s = answer (.plain .OK) (execute w (withPending rest s)) := by
  simp [step_of_pending hp, serve, hostWrite, windowReg_eq_cmd_iff]

/-- The checks see registers only, not the waiting transactions. -/
@[simp] theorem causeOf_withPending (w : Word) (ts : List HostTxn) (s : State) :
    causeOf w (withPending ts s) = causeOf w s := rfl

/-- Settles O19: the write executes its word once it is taken, and the word's cause is still its first. -/
theorem rejectedWriteChangesOnlyErrcode : Obligations.RejectedWriteChangesOnlyErrcode := by
  intro s rest w e hp hc
  have hrej : execute w (withPending rest s) = .next (reject e (withPending rest s)) :=
    execute_of_cause ((causeOf_withPending w rest s).trans hc)
  rw [step_write_cmd hp, hrej, answer_next]
  rfl

/-! ### The invalid reading -/

/-- Settles O41: an enabled COMPP stores CompP's results whatever the denominator, and the denominator decides between
the sentinel and a computed result. -/
theorem invalidReadingIsResult : Obligations.InvalidReadingIsResult := by
  rintro s ⟨hc, hr, hf⟩
  refine ⟨_, execCompp_enabled hc hr hf, storePress_presv .., storePress_errcode .., fun hz => ?_, fun hnz => ?_⟩
  · rw [storePress_pcomp, storePress_pout, storePress_pinv, asS, compP_of_zero hz]
    exact ⟨rfl, rfl, rfl⟩
  · rw [storePress_pinv, asS, compP_of_ne_zero hnz]

end Sys2Proof.Machine
end

section
/-! PROOFS. Steps: a command's answer as its first cause or its completion, a step on the waiting transactions, and the
properties every command keeps (spec/20_memory.md R39, R44; spec/60_exceptions.md R72, R86). -/

namespace Sys2Proof.Machine

variable {i : Instr} {w : Word} {s t : State}

/-! ### A command's answer -/

/-- What a command leaves when none of its checks fails (R58 to R71). -/
def completed (i : Instr) (s : State) : State :=
  match i with
  | .nop => s
  | .wrcal k lo hi => stageEntry k (calValue lo hi) s
  | .commit => activateStage s
  | .ldrawt msb lsb xlsb => loadRawT (rawCode msb lsb xlsb) s
  | .ldrawp msb lsb xlsb => loadRawP (rawCode msb lsb xlsb) s
  | .compt => storeTemp (compT s.rawT s.cal).fine (compT s.rawT s.cal).temp (compT s.rawT s.cal).ovf s
  | .compp =>
    storePress (compP s.rawP (asS s.fine) s.cal).pcomp (compP s.rawP (asS s.fine) s.cal).pout
      (compP s.rawP (asS s.fine) s.cal).inv (compP s.rawP (asS s.fine) s.cal).ovf s
  | .clrerr => clearError s

/-- No cause is reported exactly when none applies. -/
theorem firstCause_eq_none_iff (cs : List (Bool × Rejection)) : firstCause cs = none ↔ ∀ c ∈ cs, c.1 = false := by
  induction cs with
  | nil => simp
  | cons c cs ih =>
    obtain ⟨b, e⟩ := c
    cases b <;> simp [ih]

theorem noCause_wrcal_iff {k : Nat} {lo hi : Byte} :
    firstCause (causesOfInstr (.wrcal k lo hi) s) = none ↔ k < 12 ∧ s.calv = false := by
  rw [firstCause_eq_none_iff]
  simp [causesOfInstr]

theorem noCause_commit_iff :
    firstCause (causesOfInstr .commit s) = none ↔ s.calv = false ∧ s.smask = 0xFFF#12 := by
  rw [firstCause_eq_none_iff]
  simp [causesOfInstr]

theorem noCause_compt_iff : firstCause (causesOfInstr .compt s) = none ↔ TempEnabled s := by
  rw [firstCause_eq_none_iff]
  simp [causesOfInstr]

theorem noCause_compp_iff : firstCause (causesOfInstr .compp s) = none ↔ PressEnabled s := by
  rw [firstCause_eq_none_iff]
  simp [causesOfInstr]

/-- Without a cause of its own a command completes. -/
theorem exec_of_no_cause (h : firstCause (causesOfInstr i s) = none) : exec i s = .next (completed i s) := by
  cases i with
  | nop | ldrawt | ldrawp | clrerr => rfl
  | wrcal =>
    obtain ⟨hk, hc⟩ := noCause_wrcal_iff.1 h
    exact execWrcal_enabled hk hc
  | commit =>
    obtain ⟨hc, hm⟩ := noCause_commit_iff.1 h
    exact execCommit_enabled hc hm
  | compt =>
    obtain ⟨hc, hr⟩ := noCause_compt_iff.1 h
    exact execCompt_enabled hc hr
  | compp =>
    obtain ⟨hc, hr, hf⟩ := noCause_compp_iff.1 h
    exact execCompp_enabled hc hr hf

/-- A command that may complete does so whenever it answers. -/
theorem eq_completed_of_exec (hn : firstCause (causesOfInstr i s) = none) (h : exec i s = .next t) :
    t = completed i s :=
  (Host.Outcome.next.inj ((exec_of_no_cause hn).symm.trans h)).symm

/-- A command completes, or is rejected for its first cause (R76). -/
theorem exec_eq_completed_or_reject (h : exec i s = .next t) :
    (firstCause (causesOfInstr i s) = none ∧ t = completed i s) ∨
      ∃ e, firstCause (causesOfInstr i s) = some e ∧ t = reject e s := by
  obtain ⟨e, he, rfl⟩ | ⟨hn, -⟩ := exec_rejects_or_completes h
  · exact .inr ⟨e, he, rfl⟩
  · exact .inl ⟨hn, eq_completed_of_exec hn h⟩

theorem exec_of_cause {e : Rejection} (h : firstCause (causesOfInstr i s) = some e) :
    exec i s = .next (reject e s) := by
  obtain ⟨t, ht⟩ := exec_total i s
  obtain ⟨hn, -⟩ | ⟨e', he, rfl⟩ := exec_eq_completed_or_reject ht
  · cases hn.symm.trans h
  · obtain rfl := Option.some.inj (he.symm.trans h)
    exact ht

@[simp] theorem completed_pending (i : Instr) (s : State) : (completed i s).pending = s.pending := by
  cases i <;> simp [completed]

@[simp] theorem completed_reply (i : Instr) (s : State) : (completed i s).reply = s.reply := by
  cases i <;> simp [completed]

/-! ### What a command does not see -/

@[simp] theorem causesOfInstr_withPending (i : Instr) (ts : List HostTxn) (s : State) :
    causesOfInstr i (withPending ts s) = causesOfInstr i s := by
  cases i <;> rfl

@[simp] theorem completed_withPending (i : Instr) (ts : List HostTxn) (s : State) :
    completed i (withPending ts s) = withPending ts (completed i s) := by
  cases i <;> rfl

/-- A command neither reads nor writes the waiting transactions. -/
theorem exec_withPending (h : exec i s = .next t) (ts : List HostTxn) :
    exec i (withPending ts s) = .next (withPending ts t) := by
  obtain ⟨hn, rfl⟩ | ⟨e, he, rfl⟩ := exec_eq_completed_or_reject h
  · rw [← causesOfInstr_withPending i ts] at hn
    rw [exec_of_no_cause hn, completed_withPending]
  · rw [← causesOfInstr_withPending i ts] at he
    exact exec_of_cause he

theorem execute_withPending (h : execute w s = .next t) (ts : List HostTxn) :
    execute w (withPending ts s) = .next (withPending ts t) := by
  obtain ⟨i, hd, hi⟩ | ⟨e, hd, rfl⟩ := execute_cases h
  · rw [execute_of_command hd, exec_withPending hi]
  · exact execute_of_rejected hd

/-- Serving a transaction does not depend on those that wait behind it (R44; log entries 1 and 3). -/
theorem serve_withPending {x : HostTxn} (h : serve x s = .next t) (ts : List HostTxn) :
    serve x (withPending ts s) = .next (withPending ts t) := by
  cases x with
  | read width off =>
    rw [serve_read] at h ⊢
    obtain rfl := Host.Outcome.next.inj h
    rfl
  | reset =>
    obtain rfl := Host.Outcome.next.inj h
    rfl
  | write width off w =>
    simp only [serve, hostWrite] at h ⊢
    split at h
    · next hw => obtain rfl := Host.Outcome.next.inj h; rw [if_pos hw]; rfl
    · next hw =>
      rw [if_neg hw]
      split at h
      · next hc =>
        obtain ⟨u, hu, rfl⟩ := answer_cases h
        rw [if_pos hc, execute_withPending hu]
        rfl
      · next hc => obtain rfl := Host.Outcome.next.inj h; rw [if_neg hc]; rfl

/-! ### One step -/

theorem exec_pending (h : exec i s = .next t) : t.pending = s.pending := by
  obtain ⟨-, rfl⟩ | ⟨e, -, rfl⟩ := exec_eq_completed_or_reject h
  · exact completed_pending i s
  · exact reject_pending s e

theorem execute_pending (h : execute w s = .next t) : t.pending = s.pending := by
  obtain ⟨i, -, hi⟩ | ⟨e, -, rfl⟩ := execute_cases h
  · exact exec_pending hi
  · exact reject_pending s e

/-- Serving a transaction leaves the waiting ones, a reset too (log entry 3). -/
theorem serve_pending {x : HostTxn} (h : serve x s = .next t) : t.pending = s.pending := by
  obtain ⟨_, _, u, -, -, hu, rfl⟩ | ⟨-, r, rfl⟩ | ⟨-, rfl⟩ := serve_cases h
  · rw [respond_pending, execute_pending hu]
  · rfl
  · rfl

theorem serve_total (x : HostTxn) (s : State) : ∃ t, serve x s = .next t := by
  cases x with
  | read width off => exact ⟨_, serve_read width off s⟩
  | reset => exact ⟨_, rfl⟩
  | write width off w =>
    simp only [serve, hostWrite]
    obtain ⟨u, hu⟩ := execute_total w s
    split
    · exact ⟨_, rfl⟩
    · split
      · exact ⟨_, by rw [hu, answer_next]⟩
      · exact ⟨_, rfl⟩

/-- A step takes exactly the front transaction (R44); an idle one has none to take (log entry 2). -/
theorem step_pending (h : step s = .next t) : t.pending = s.pending.tail := by
  obtain ⟨hp, rfl⟩ | ⟨x, rest, hp, hx⟩ := step_cases h
  · simp [hp]
  · rw [serve_pending hx, hp, withPending_pending, List.tail_cons]

theorem step_total (s : State) : ∃ t, step s = .next t := by
  cases hp : s.pending with
  | nil => exact ⟨s, by simp [step, serveNext, hp]⟩
  | cons x rest => rw [step_of_pending hp]; exact serve_total x _

/-- Settles O9: every meaning answers in each case of its checks, and what a step serves leaves the rest waiting. -/
theorem everyStepYieldsNextState : Obligations.EveryStepYieldsNextState := by
  refine ⟨exec_total, execute_total, fun s => ?_⟩
  obtain ⟨t, ht⟩ := step_total s
  exact ⟨t, ht, step_pending ht⟩

/-! ### Runs -/

@[simp] theorem run_zero (s : State) : Host.Core.run Sys2Proof.core 0 s = .next s := rfl

theorem run_succ_of_step {n : Nat} (h : step s = .next t) :
    Host.Core.run Sys2Proof.core (n + 1) s = Host.Core.run Sys2Proof.core n t := by
  simp only [Host.Core.run, Host.Check.core_step, h]

/-- A run of the waiting transactions is the same whatever waits behind them, by induction on the transactions: the
first is served alike in both runs and leaves the others waiting. -/
theorem run_withPending_append (ts us : List HostTxn) (s : State) : ∃ t,
    Host.Core.run Sys2Proof.core ts.length (withPending ts s) = .next t ∧ t.pending = [] ∧
      Host.Core.run Sys2Proof.core ts.length (withPending (ts ++ us) s) = .next (withPending us t) := by
  induction ts generalizing s with
  | nil => exact ⟨withPending [] s, rfl, rfl, rfl⟩
  | cons x ts ih =>
    obtain ⟨u, hu⟩ := serve_total x s
    have hstep (rest : List HostTxn) : step (withPending (x :: rest) s) = .next (withPending rest u) :=
      (step_of_pending rfl).trans (serve_withPending hu rest)
    rw [List.length_cons, List.cons_append, run_succ_of_step (hstep ts), run_succ_of_step (hstep (ts ++ us))]
    exact ih u

/-- Settles O10: the states the statement gives as updates are those `withPending` names. -/
theorem transactionsServedInOrder : Obligations.TransactionsServedInOrder :=
  run_withPending_append

/-! ### Single transactions -/

/-- Settles O7: a write to CMD executes its word, which dispatches the decoded command. -/
theorem stepRunsDecodedCommand : Obligations.StepRunsDecodedCommand := by
  intro s rest w i hp hd
  rw [step_write_cmd hp, execute_of_command hd]
  rfl

/-- A word is its own number in the opcode table (log entry 10). -/
@[simp] theorem tableWord_toNat (w : Word) : tableWord 32 w.toNat = w := by
  rw [tableWord, Nat.mod_eq_of_lt w.isLt, BitVec.ofNat_toNat, BitVec.setWidth_eq]

/-- Settles O8: the placed word is at the front, and taking it gives the state before it was placed. -/
theorem fetchedWordRunsNext : Obligations.FetchedWordRunsNext := by
  intro s w i hd
  rw [State.withFetchWord, tableWord_toNat]
  exact stepRunsDecodedCommand (issueCommand w s) s.pending w i rfl hd

/-- Settles O13: neither a read nor a write of another width reaches a register. -/
theorem otherWidthAccessChangesNothing : Obligations.OtherWidthAccessChangesNothing := by
  intro s rest width off hw
  constructor
  · intro hp
    rw [step_read hp, readReply, if_pos hw]
    rfl
  · intro w hp
    rw [step_of_pending hp, serve, if_pos hw]
    rfl

/-- Settles O15: the registers' values after reset are those of R33's table, and the reset event keeps only the waiting
transactions. -/
theorem resetGivesEveryRegisterItsValue : Obligations.ResetGivesEveryRegisterItsValue := by
  refine ⟨rfl, by decide, fun s rest hp => ?_⟩
  rw [step_of_pending hp]
  rfl

/-- Settles O17: the codes of R73's table, cause by cause. -/
theorem rejectionCodes : Obligations.RejectionCodes :=
  fun _ => ⟨rfl, rfl, rfl, rfl, rfl, rfl, rfl, rfl⟩

end Sys2Proof.Machine
end

section
/-! PROOFS. Invariants: what every command, every step and every run keeps: who writes what, the locked set, the valid
flags, and the invariant of Safety.lean (spec/10_state.md R14 to R29; spec/40_calibration.md; spec/60_exceptions.md
R73). -/

namespace Sys2Proof.Machine

variable {i : Instr} {s t : State}

/-! ### Who writes what -/

/-- Settles O47: a rejection writes ERRCODE only, and each completion only its command's registers. -/
theorem onlyTheirCommandsWriteRegisters : Obligations.OnlyTheirCommandsWriteRegisters := by
  intro i s t h
  obtain ⟨-, rfl⟩ | ⟨e, -, rfl⟩ := exec_eq_completed_or_reject h
  · cases i <;> simp [completed]
  · have : ∃ e', reject e s = reject e' s := ⟨e, rfl⟩
    simp [this]

/-! ### Properties every transaction but a reset keeps -/

/-- `P` is broken by no rejection and no completion, and says nothing of the waiting transactions or the answer. -/
structure KeptByCommands (P : State → Prop) : Prop where
  reject : ∀ {s} (e : Rejection), P s → P (reject e s)
  completed : ∀ {s} {i : Instr}, firstCause (causesOfInstr i s) = none → P s → P (completed i s)
  respond : ∀ {s} (r : Reply), P s → P (respond r s)
  withPending : ∀ {s} (ts : List HostTxn), P s → P (withPending ts s)

namespace KeptByCommands

variable {P : State → Prop}

theorem exec (hP : KeptByCommands P) (h : exec i s = .next t) (hs : P s) : P t := by
  obtain ⟨hn, rfl⟩ | ⟨e, -, rfl⟩ := exec_eq_completed_or_reject h
  · exact hP.completed hn hs
  · exact hP.reject e hs

/-- A step keeps the property, or serves a reset. -/
theorem step_or_reset (hP : KeptByCommands P) (h : step s = .next t) (hs : P s) :
    P t ∨ (HostTxn.reset ∈ s.pending ∧ t = Machine.withPending t.pending State.reset) := by
  obtain ⟨-, rfl⟩ | ⟨x, rest, hp, hx⟩ := step_cases h
  · exact .inl hs
  · have hs' : P (Machine.withPending rest s) := hP.withPending rest hs
    obtain ⟨_, w, u, -, -, hu, rfl⟩ | ⟨-, r, rfl⟩ | ⟨rfl, rfl⟩ := serve_cases hx
    · obtain ⟨i, -, hi⟩ | ⟨e, -, rfl⟩ := execute_cases hu
      · exact .inl (hP.respond _ (hP.exec hi hs'))
      · exact .inl (hP.respond _ (hP.reject e hs'))
    · exact .inl (hP.respond r hs')
    · exact .inr ⟨by rw [hp]; exact List.mem_cons_self, rfl⟩

/-- So does a run without a reset, by induction on the steps: each step takes from the waiting transactions and adds
none. -/
theorem run (hP : KeptByCommands P) {n : Nat} (hr : HostTxn.reset ∉ s.pending)
    (h : Host.Core.run Sys2Proof.core n s = .next t) (hs : P s) : P t := by
  induction n generalizing s with
  | zero =>
    obtain rfl := Host.Outcome.next.inj h
    exact hs
  | succ n ih =>
    obtain ⟨u, hu⟩ := step_total s
    rw [run_succ_of_step hu] at h
    have hru : HostTxn.reset ∉ u.pending := fun hm => hr (List.mem_of_mem_tail (step_pending hu ▸ hm))
    obtain hPu | ⟨hm, -⟩ := hP.step_or_reset hu hs
    · exact ih hru h hPu
    · exact absurd hm hr

end KeptByCommands

/-! ### The locked set -/

/-- `t` has the set of `s`, locked (R16, R18). -/
def HasLockedSet (s t : State) : Prop :=
  t.calv = true ∧ t.cal = s.cal ∧ t.stage = s.stage ∧ t.smask = s.smask

/-- Only WRCAL and COMMIT write the set, and CALV locks both out. -/
theorem hasLockedSet_kept (s : State) : KeptByCommands (HasLockedSet s) where
  reject _ h := h
  respond _ h := h
  withPending _ h := h
  completed := by
    rintro u i hn ⟨hc, hset⟩
    cases i with
    | wrcal => cases hc.symm.trans (noCause_wrcal_iff.1 hn).2
    | commit => cases hc.symm.trans (noCause_commit_iff.1 hn).1
    | _ => simpa [HasLockedSet, completed] using ⟨hc, hset⟩

/-- Settles O45: a state has its own set, and no run without a reset changes it. -/
theorem committedSetIsImmutable : Obligations.CommittedSetIsImmutable :=
  fun _ s _ hc hr h => (hasLockedSet_kept s).run hr h ⟨hc, rfl, rfl, rfl⟩

/-! ### The valid flags -/

/-- Every valid flag and mask bit of `s` is set in `t`. -/
def HasFlagsOf (s t : State) : Prop :=
  (s.calv = true → t.calv = true) ∧ (s.rawtv = true → t.rawtv = true) ∧ (s.rawpv = true → t.rawpv = true) ∧
    (s.finev = true → t.finev = true) ∧ (s.presv = true → t.presv = true) ∧
    (∀ k, s.smask.getLsbD k = true → t.smask.getLsbD k = true)

/-- A completion only ever sets flags and mask bits. -/
theorem hasFlagsOf_kept (s : State) : KeptByCommands (HasFlagsOf s) where
  reject _ h := h
  respond _ h := h
  withPending _ h := h
  completed := by
    rintro u i - ⟨hcalv, hrawtv, hrawpv, hfinev, hpresv, hsmask⟩
    cases i with
    | wrcal k lo hi =>
      refine ⟨hcalv, hrawtv, hrawpv, hfinev, hpresv, fun j hj => ?_⟩
      simp [completed, hsmask j hj]
    | _ => simp_all [HasFlagsOf, completed]

/-- Settles O46: a state has its own flags, and no run without a reset clears one. -/
theorem onlyResetClearsValidFlags : Obligations.OnlyResetClearsValidFlags :=
  fun _ s _ hr h => (hasFlagsOf_kept s).run hr h ⟨id, id, id, id, id, fun _ => id⟩

/-! ### The invariant -/

/-- Settles O43: after reset nothing is staged, loaded or computed, and every register is 0. -/
theorem resetMeetsInv : Obligations.ResetMeetsInv where
  errcode_used := by decide
  unstaged_zero := by decide
  committed := by decide
  uncommitted := by decide
  rawT_unloaded := by decide
  rawP_unloaded := by decide
  fine_after_load := by decide
  fine_uncomputed := by decide
  fine_range := by decide
  temp_of_fine := by decide
  press_after_fine := by decide
  press_uncomputed := by decide
  pout_of_pcomp := by decide
  sentinel_zero := by decide

namespace State.Inv

theorem withPending (hs : s.Inv) (ts : List HostTxn) : (withPending ts s).Inv := { hs with }

theorem respond (hs : s.Inv) (r : Reply) : (respond r s).Inv := { hs with }

theorem reject (hs : s.Inv) (e : Rejection) : (reject e s).Inv :=
  { hs with errcode_used := (Rejection.code_range e).2 }

theorem clearError (hs : s.Inv) : (clearError s).Inv := { hs with errcode_used := Nat.zero_le 8 }

theorem stageEntry (hs : s.Inv) {k : Nat} (hk : k < 12) (hc : s.calv = false) (v : Half) : (stageEntry k v s).Inv :=
  { hs with
    unstaged_zero := fun j hj => by
      obtain ⟨hne, hbit⟩ : j.val ≠ k ∧ s.smask[j] = false := by
        simpa [← BitVec.getLsbD_eq_getElem, maskBit_getLsbD s.smask hk j.val] using hj
      simpa [Ne.symm hne] using hs.unstaged_zero j hbit
    committed := fun h => by cases hc.symm.trans h }

theorem activateStage (hs : s.Inv) (hm : s.smask = 0xFFF#12) : (activateStage s).Inv :=
  { hs with
    committed := fun _ => ⟨hm, rfl⟩
    uncommitted := fun h => by cases h
    fine_after_load := fun h => ⟨rfl, (hs.fine_after_load h).2⟩
    press_after_fine := fun h => ⟨rfl, (hs.press_after_fine h).2⟩ }

theorem loadRawT (hs : s.Inv) (code : Raw) : (loadRawT code s).Inv :=
  { hs with
    rawT_unloaded := fun h => by cases h
    fine_after_load := fun h => ⟨(hs.fine_after_load h).1, rfl⟩ }

theorem loadRawP (hs : s.Inv) (code : Raw) : (loadRawP code s).Inv :=
  { hs with
    rawP_unloaded := fun h => by cases h
    press_after_fine := fun h =>
      have ⟨hc, _, hf⟩ := hs.press_after_fine h
      ⟨hc, rfl, hf⟩ }

/-- The results of a COMPT meet the invariant when they are a fine temperature in range and its temperature. -/
theorem storeTemp (hs : s.Inv) (hc : s.calv = true) (hr : s.rawtv = true) {f : Int}
    (hf : -1179648 ≤ f ∧ f ≤ 1179646) (o : Bool) : (storeTemp f (tempOfFine f) o s).Inv :=
  have hfine : asS (toReg f) = f := by rw [asS_toReg, s32_of_inRange] <;> omega
  { hs with
    fine_after_load := fun _ => ⟨hc, hr⟩
    fine_uncomputed := fun h => by cases h
    fine_range := by simpa only [storeTemp_fine, hfine] using hf
    temp_of_fine := by simp only [storeTemp_temp, storeTemp_fine, hfine]
    press_after_fine := fun h =>
      have ⟨hc, hr, _⟩ := hs.press_after_fine h
      ⟨hc, hr, rfl⟩ }

/-- The results of a COMPP meet the invariant when the output is the pressure scaled and a sentinel is 0. -/
theorem storePress (hs : s.Inv) (hc : s.calv = true) (hr : s.rawpv = true) (hf : s.finev = true) {pc : Int}
    {inv : Bool} (hinv : inv = true → pc = 0) (o : Bool) :
    (storePress pc (u32 (pc * Config.poutScale)) inv o s).Inv :=
  { hs with
    press_after_fine := fun _ => ⟨hc, hr, hf⟩
    press_uncomputed := fun h => by cases h
    pout_of_pcomp := by simp [toReg_mul]
    sentinel_zero := fun h => by rw [storePress_pcomp, hinv h]; rfl }

end State.Inv

/-- CompP flags the sentinel only with a pressure of 0 (R78). -/
theorem compP_pcomp_of_inv {raw : Raw} {fine : Int} {cal : CalFile} (hi : (compP raw fine cal).inv = true) :
    (compP raw fine cal).pcomp = 0 := by
  by_cases h : (pressPoly fine cal).v1Step6 = 0
  · rw [compP_of_zero h]
  · rw [compP_of_ne_zero h] at hi; cases hi

/-- Each command's completion keeps the invariant: its checks give what its update asks for. -/
theorem inv_kept : KeptByCommands State.Inv where
  reject e hs := hs.reject e
  respond r hs := hs.respond r
  withPending ts hs := hs.withPending ts
  completed {s i} hn hs := by
    cases i with
    | nop => exact hs
    | clrerr => exact hs.clearError
    | ldrawt => exact hs.loadRawT _
    | ldrawp => exact hs.loadRawP _
    | wrcal k lo hi =>
      obtain ⟨hk, hc⟩ := noCause_wrcal_iff.1 hn
      exact hs.stageEntry hk hc _
    | commit =>
      obtain ⟨-, hm⟩ := noCause_commit_iff.1 hn
      exact hs.activateStage hm
    | compt =>
      obtain ⟨hc, hr⟩ := noCause_compt_iff.1 hn
      simp only [completed, compT_temp]
      exact hs.storeTemp hc hr (compT_fine_bounds s.rawT s.cal) _
    | compp =>
      obtain ⟨hc, hr, hf⟩ := noCause_compp_iff.1 hn
      simp only [completed, compP_pout]
      exact hs.storePress hc hr hf compP_pcomp_of_inv _

/-- Settles O44: every transaction but a reset keeps the invariant, and a reset gives it anew. -/
theorem stepKeepsInv : Obligations.StepKeepsInv := by
  intro s t hs h
  obtain ht | ⟨-, ht⟩ := inv_kept.step_or_reset h hs
  · exact ht
  · rw [ht]
    exact resetMeetsInv.withPending _

end Sys2Proof.Machine
end

section
/-! PROOFS. Encoding, whole words: the decoder and the encoder undo each other, and both agree with the opcode map and
with the assembler's sums (spec/30_encoding.md R48 to R52, R55). -/

namespace Sys2Proof

variable {w : Word} {i : Instr}

/-! ### Decoding an encoded command -/

/-- Settles O2: the decoder finds each field the encoder packed, and an index of 15 or less survives its four bits. -/
theorem decodeOfEncode : Obligations.DecodeOfEncode := by
  intro i hi
  cases i with
  | wrcal k lo hi' =>
    have hk : k < 16 := by simpa [WellFormed, Instr.wellFormed, Nat.lt_succ_iff] using hi
    simp [encode, decode, hk]
  | ldrawt | ldrawp => simp [encode, decode]
  | nop | commit | compt | compp | clrerr => rfl

/-- Settles O1: the decoder evaluated on the spec's words. -/
theorem decoderReadsSpecWords : Obligations.DecoderReadsSpecWords := by
  unfold Obligations.DecoderReadsSpecWords
  decide

/-! ### Encoding a decoded word -/

/-- A word is its opcode, given as a number, packed with its other fields. -/
theorem packWord_of_op {op : BitVec 4} (hop : (fieldOp w).toNat = op.toNat) :
    packWord op (fieldIdx w) (fieldB2 w) (fieldB1 w) (fieldB0 w) = w := by
  rw [← BitVec.eq_of_toNat_eq hop, packWord_fields]

/-- A word without operand bits is its opcode alone. -/
theorem packWord_of_body_eq_zero {op : BitVec 4} (hop : (fieldOp w).toNat = op.toNat) (hb : fieldBody w = 0) :
    packWord op 0 0 0 0 = w := by
  have hbody : w.toNat % 2 ^ 28 = 0 := by rw [← fieldBody_toNat, hb]; rfl
  apply BitVec.eq_of_toNat_eq
  rw [packWord_toNat, ← hop, fieldOp_toNat]
  simp
  omega

/-- Settles O3: each branch of the decoder fixes the opcode and the must-be-zero fields, and the operands are the rest
of the word. -/
theorem encodeOfDecode : Obligations.EncodeOfDecode := by
  intro w i h
  unfold decode at h
  split at h
  case h_2 hop =>
    split at h
    · cases h
    · next hb2 =>
      obtain rfl := Decoded.command.inj h
      have hidx := (fieldIdx w).isLt
      refine ⟨?_, by simp only [WellFormed, Instr.wellFormed, decide_eq_true_eq]; omega⟩
      rw [encode, BitVec.ofNat_toNat, BitVec.setWidth_eq, ← not_not.1 hb2]
      exact packWord_of_op hop
  case h_4 hop | h_5 hop =>
    split at h
    · cases h
    · next hidx =>
      obtain rfl := Decoded.command.inj h
      refine ⟨?_, rfl⟩
      rw [encode, ← not_not.1 hidx]
      exact packWord_of_op hop
  case h_9 => cases h
  all_goals
    next hop =>
      obtain ⟨hb, rfl⟩ := decodePlain_command h
      exact ⟨packWord_of_body_eq_zero hop hb, rfl⟩

/-! ### The opcode map -/

/-- Every well-formed command's word lies in the map's row of its mnemonic (R51). -/
theorem encode_matches_row (hi : WellFormed i) {r : OpcodeRow} (hr : r ∈ opcodeMap) (hm : r.mnemonic = i.mnemonic) :
    encode i &&& r.mask = r.pattern := by
  have hmap : Laws.EncodeInMap.Statement i := by
    cases i with
    | nop => exact Laws.EncodeInMap.nop
    | wrcal k lo hi' => exact Laws.EncodeInMap.wrcal k lo hi'
    | commit => exact Laws.EncodeInMap.commit
    | ldrawt msb lsb xlsb => exact Laws.EncodeInMap.ldrawt msb lsb xlsb
    | ldrawp msb lsb xlsb => exact Laws.EncodeInMap.ldrawp msb lsb xlsb
    | compt => exact Laws.EncodeInMap.compt
    | compp => exact Laws.EncodeInMap.compp
    | clrerr => exact Laws.EncodeInMap.clrerr
  simpa [OpcodeRow.matchesWord] using hmap hi r hr hm

/-- A word of the row without free bits is the row's pattern. -/
theorem eq_of_and_allOnes {p : Word} (h : w &&& 0xFFFFFFFF#32 = p) : w = p :=
  (BitVec.and_allOnes (x := w)).symm.trans h

/-- The bits under WRCAL's mask are the opcode and B2. -/
theorem fields_of_wrcalMask {op : BitVec 4} (h : w &&& 0xF0FF0000#32 = packWord op 0 0 0 0) :
    fieldOp w = op ∧ fieldB2 w = 0 := by
  rw [← packWord_fields w, Laws.packWord_and_wrcalMask] at h
  exact ⟨by simpa using congrArg fieldOp h, by simpa using congrArg fieldB2 h⟩

/-- The bits under the raw loads' mask are the opcode and IDX. -/
theorem fields_of_loadMask {op : BitVec 4} (h : w &&& 0xFF000000#32 = packWord op 0 0 0 0) :
    fieldOp w = op ∧ fieldIdx w = 0 := by
  rw [← packWord_fields w, Laws.packWord_and_loadMask] at h
  exact ⟨by simpa using congrArg fieldOp h, by simpa using congrArg fieldIdx h⟩

/-- A word of a row decodes to the row's command. -/
theorem decode_of_row {r : OpcodeRow} (hr : r ∈ opcodeMap) (h : w &&& r.mask = r.pattern) :
    ∃ i, decode w = .command i ∧ i.mnemonic = r.mnemonic := by
  simp only [opcodeMap, List.mem_cons, List.not_mem_nil, or_false] at hr
  obtain rfl | rfl | rfl | rfl | rfl | rfl | rfl | rfl := hr
  case inr.inl =>
    obtain ⟨hop, hb2⟩ := fields_of_wrcalMask (op := 1) h
    exact ⟨.wrcal (fieldIdx w).toNat (fieldB0 w) (fieldB1 w), by simp [decode, hop, hb2], rfl⟩
  case inr.inr.inr.inl =>
    obtain ⟨hop, hidx⟩ := fields_of_loadMask (op := 3) h
    exact ⟨.ldrawt (fieldB2 w) (fieldB1 w) (fieldB0 w), by simp [decode, hop, hidx], rfl⟩
  case inr.inr.inr.inr.inl =>
    obtain ⟨hop, hidx⟩ := fields_of_loadMask (op := 4) h
    exact ⟨.ldrawp (fieldB2 w) (fieldB1 w) (fieldB0 w), by simp [decode, hop, hidx], rfl⟩
  all_goals
    obtain rfl := eq_of_and_allOnes h
    exact ⟨_, rfl, rfl⟩

/-- Settles O4: a word of a row decodes to the row's command, and a decoded word is the word of its command, which lies
in the row. -/
theorem decoderAcceptsOpcodeMap : Obligations.DecoderAcceptsOpcodeMap := by
  refine fun w r hr => ⟨decode_of_row hr, fun ⟨i, hd, hm⟩ => ?_⟩
  obtain ⟨rfl, hi⟩ := encodeOfDecode w i hd
  exact encode_matches_row hi hr hm.symm

/-! ### The assembler's sums -/

/-- Settles O5: a packed word is the sum of its fields at their weights. -/
theorem encodedWordsByFormula : Obligations.EncodedWordsByFormula := by
  refine ⟨fun k lo hi hk => ?_, fun msb lsb xlsb => ?_, fun msb lsb xlsb => ?_, rfl, rfl, rfl, rfl, rfl⟩
  · have hk16 : k < 16 := by omega
    simp [encode, packWord_toNat, hk16]
  · simp [encode, packWord_toNat]
  · simp [encode, packWord_toNat]

end Sys2Proof
end

section
/-! PROOFS. Temperature: CompT as exact integers with three narrowed steps, and as operations on 32-bit words
(spec/42_compensation.md R62; spec/00_scope.md R6 to R8). -/

namespace Sys2Proof.Machine

variable {s t : State}

/-! ### Lists of exact results -/

theorem any_leavesS32_iff (vs : List Int) :
    vs.any leavesS32 = true ↔ ∃ v ∈ vs, v < -2147483648 ∨ 2147483647 < v := by
  simp only [List.any_eq_true, leavesS32_eq_true_iff]

/-- Values that do not leave the range are narrowed to themselves. -/
theorem s32_eq_of_any_eq_false {vs : List Int} (h : vs.any leavesS32 = false) : ∀ v ∈ vs, s32 v = v := by
  intro v hv
  obtain ⟨lo, hi⟩ := (leavesS32_eq_false_iff v).1 (by simpa using List.any_eq_false.1 h v hv)
  exact s32_of_inRange lo hi

/-! ### The steps that can overflow -/

/-- The exact result of R62's step d. -/
def tempD (raw : Raw) (cal : CalFile) : Int := (zext20 raw / 8 - coefT1 cal * 2) * coefT2 cal

/-- The exact result of step f. -/
def tempF (raw : Raw) (cal : CalFile) : Int := (zext20 raw / 16 - coefT1 cal) * (zext20 raw / 16 - coefT1 cal)

/-- The exact result of step h, from the narrowed step f. -/
def tempH (raw : Raw) (cal : CalFile) : Int := s32 (tempF raw cal) / 4096 * coefT3 cal

/-- The exact results of the steps that can leave the signed range. -/
def tempExacts (raw : Raw) (cal : CalFile) : List Int := [tempD raw cal, tempF raw cal, tempH raw cal]

/-- The exact sum of step `fine`, from the narrowed steps d and h. -/
def tempSum (raw : Raw) (cal : CalFile) : Int := s32 (tempD raw cal) / 2048 + s32 (tempH raw cal) / 16384

theorem tempSum_bounds (raw : Raw) (cal : CalFile) : -1179648 ≤ tempSum raw cal ∧ tempSum raw cal ≤ 1179646 := by
  have := s32_bounds (tempD raw cal)
  have := s32_bounds (tempH raw cal)
  unfold tempSum
  omega

/-- CompT's fine temperature is the exact sum, and its overflow that of steps d, f and h: the operands of every other
checked step keep it in range (R62; log entry 7). -/
theorem compT_fine_ovf (raw : Raw) (cal : CalFile) :
    (compT raw cal).fine = tempSum raw cal ∧ (compT raw cal).ovf = (tempExacts raw cal).any leavesS32 := by
  have hr := zext20_bounds raw
  have hT : 0 ≤ coefT1 cal ∧ coefT1 cal ≤ 65535 := zext16_bounds _
  have hsum := tempSum_bounds raw cal
  simp only [tempExacts, tempSum, tempH, tempF, tempD, List.any_cons, List.any_nil] at hsum ⊢
  simp (disch := omega) only [compT, asr, shl, Int.reducePow, chk_of_inRange, chk_val, chk_ovf, Bool.or_false,
    Bool.false_or, Bool.or_assoc, and_self]

/-- With a fine temperature in R62's range the last two lines narrow nothing. -/
theorem tempOfFine_eq {f : Int} (hf : -1179648 ≤ f ∧ f ≤ 1179646) : tempOfFine f = (f * 5 + 128) / 256 := by
  simp (disch := omega) only [tempOfFine, asr, Int.reducePow, s32_of_inRange]

/-! ### The registers after COMPT -/

/-- FINE after a COMPT that runs is CompT's fine temperature: it fits the register. -/
theorem asS_completed_compt_fine (s : State) : asS (completed .compt s).fine = (compT s.rawT s.cal).fine := by
  have hb := compT_fine_bounds s.rawT s.cal
  rw [completed, storeTemp_fine, asS_toReg, s32_of_inRange] <;> omega

/-- And TEMP is its temperature, with nothing narrowed. -/
theorem asS_completed_compt_temp (s : State) :
    asS (completed .compt s).temp = ((compT s.rawT s.cal).fine * 5 + 128) / 256 := by
  have hb := compT_fine_bounds s.rawT s.cal
  rw [completed, storeTemp_temp, asS_toReg, compT_temp, tempOfFine_eq hb, s32_of_inRange] <;> omega

/-- FINE, TEMP and OVFT after a COMPT that runs: the exact sum, its temperature, the overflow of the three steps. -/
theorem compt_results (he : TempEnabled s) (h : exec .compt s = .next t) :
    t.fine.toInt = tempSum s.rawT s.cal ∧ t.temp.toInt = (t.fine.toInt * 5 + 128) / 256 ∧
      t.ovft = (tempExacts s.rawT s.cal).any leavesS32 := by
  obtain rfl := eq_completed_of_exec (noCause_compt_iff.2 he) h
  obtain ⟨hsum, hovf⟩ := compT_fine_ovf s.rawT s.cal
  have hfine : (completed .compt s).fine.toInt = (compT s.rawT s.cal).fine := asS_completed_compt_fine s
  rw [hfine]
  exact ⟨hsum, asS_completed_compt_temp s, hovf⟩

/-- Settles O34: TEMP is a floor by 256 of FINE's product with the half added. -/
theorem temperatureRoundsToNearest : Obligations.TemperatureRoundsToNearest := by
  intro s t he h
  obtain ⟨-, htemp, -⟩ := compt_results he h
  omega

/-- Settles O33: the overflow is that of steps d, f and h, and the other steps' operands bound their results. -/
theorem temperatureOverflowSteps : Obligations.TemperatureOverflowSteps := by
  intro s t he h r T1 d f h' leaves
  obtain ⟨hfine, -, hovf⟩ := compt_results he h
  have hsum := tempSum_bounds s.rawT s.cal
  have hr : 0 ≤ r ∧ r ≤ 1048575 := zext20_bounds s.rawT
  have hT : 0 ≤ T1 ∧ T1 ≤ 65535 := zext16_bounds s.cal[0]
  rw [hfine, show s32 d / 2048 + s32 h' / 16384 = tempSum s.rawT s.cal from rfl]
  refine ⟨?_, ?_, ?_, ?_, ?_, rfl, ?_, ?_⟩
  · simp only [hovf, any_leavesS32_iff, tempExacts, List.mem_cons, List.not_mem_nil, or_false, exists_eq_or_imp,
      exists_eq_left]
    rfl
  all_goals simp only [leaves]; omega

/-- Settles O32: without overflow none of the three narrowings changes its value. -/
theorem temperatureExactWithoutOverflow : Obligations.TemperatureExactWithoutOverflow := by
  intro s t he h hno r T1 fine
  obtain ⟨hfine, htemp, hovf⟩ := compt_results he h
  have hex := s32_eq_of_any_eq_false (hovf.symm.trans hno)
  simp only [tempExacts, List.forall_mem_cons] at hex
  obtain ⟨hd, hf, hh, -⟩ := hex
  have hsum : tempSum s.rawT s.cal = fine := by
    rw [tempSum, hd, hh, tempH, hf]
    rfl
  exact ⟨hfine.trans hsum, by rw [htemp, hfine, hsum]⟩

/-- Settles O39: CompT reads no entry but the first three. -/
theorem temperatureDependsOnlyOnInputs : Obligations.TemperatureDependsOnlyOnInputs := by
  intro s s' t t' he he' hraw h0 h1 h2 h h'
  obtain rfl := eq_completed_of_exec (noCause_compt_iff.2 he) h
  obtain rfl := eq_completed_of_exec (noCause_compt_iff.2 he') h'
  have hT : compT s.rawT s.cal = compT s'.rawT s'.cal := by
    simp only [compT, coefT1, coefT2, coefT3, hraw, h0, h1, h2]
  simp only [completed, storeTemp_fine, storeTemp_temp, storeTemp_ovft, hT, and_self]

/-! ### The listing -/

/-- A right shift of a value in range is that of its pattern. -/
theorem toReg_asr_of_inRange {v : Int} (lo : -2147483648 ≤ v) (hi : v ≤ 2147483647) (k : Nat) :
    toReg (asr v k) = (toReg v).sshiftRight k := by
  rw [← toReg_asr, s32_of_inRange lo hi]

theorem toReg_asr_zext20 (raw : Raw) (k : Nat) : toReg (asr (zext20 raw) k) = (raw.zeroExtend 32).sshiftRight k := by
  have := zext20_bounds raw
  rw [toReg_asr_of_inRange (by omega) (by omega), toReg_zext20]

/-- FINE's pattern is the listing's, step by step (R62, R66). -/
theorem toReg_compT_fine (raw : Raw) (cal : CalFile) : toReg (compT raw cal).fine = (listingTemp raw cal).1 := by
  simp only [compT, chk_val, listingTemp, wordZ, wordS, toReg_s32, toReg_add, toReg_sub, toReg_mul, toReg_shl,
    toReg_asr, toReg_asr_zext20, coefT1, coefT2, coefT3, toReg_zext16, toReg_sext16]

/-- The listing's last line on the pattern of the fine temperature. -/
theorem toReg_tempOfFine (f : Int) : toReg (tempOfFine f) = (toReg f * 5 + 128).sshiftRight 8 := by
  rw [tempOfFine, toReg_asr, toReg_add, toReg_s32, toReg_mul]
  rfl

/-- Settles O30: each step of CompT leaves in its register what the listing's operation gives on the registers. -/
theorem temperatureMatchesListing : Obligations.TemperatureMatchesListing := by
  intro s he
  refine ⟨_, exec_of_no_cause (noCause_compt_iff.2 he), ?_⟩
  simp only [completed, storeTemp_fine, storeTemp_temp, compT_temp, toReg_tempOfFine, toReg_compT_fine]
  rfl

end Sys2Proof.Machine
end

section
/-! PROOFS. Pressure, ranges: what the guard, the division and the correction of CompP can compute
(spec/42_compensation.md R63, R67 to R69). -/

namespace Sys2Proof.Machine

/-! ### The denominator -/

/-- v1 after step 5 is a signed 32-bit value shifted right by 18 (R69). -/
theorem v1Step5_bounds (fine : Int) (cal : CalFile) :
    -8192 ≤ (pressPoly fine cal).v1Step5 ∧ (pressPoly fine cal).v1Step5 ≤ 8191 := by
  simp only [pressPoly, asr, Int.reducePow, chk_val]
  generalize (_ : Int) + _ = xy
  have := s32_bounds xy
  omega

/-- The exact product of step 6. -/
def denProduct (fine : Int) (cal : CalFile) : Int := (32768 + (pressPoly fine cal).v1Step5) * coefP1 cal

/-- The sum of step 6 is in range. -/
theorem s32_step6Sum (fine : Int) (cal : CalFile) :
    s32 (32768 + (pressPoly fine cal).v1Step5) = 32768 + (pressPoly fine cal).v1Step5 := by
  have h5 := v1Step5_bounds fine cal
  exact s32_of_inRange (by omega) (by omega)

/-- Step 6 narrows only its product. -/
theorem v1Step6_eq (fine : Int) (cal : CalFile) :
    (pressPoly fine cal).v1Step6 = s32 (denProduct fine cal) / 32768 := by
  rw [denProduct, ← s32_step6Sum]
  rfl

/-- And the product's overflow is among those CompP reports. -/
theorem pressPoly_ovf_of_denProduct {fine : Int} {cal : CalFile} (h : leavesS32 (denProduct fine cal) = true) :
    (pressPoly fine cal).ovf = true := by
  rw [denProduct, ← s32_step6Sum] at h
  exact Bool.or_eq_true_iff.2 (.inr h)

theorem coefP1_bounds (cal : CalFile) : 0 ≤ coefP1 cal ∧ coefP1 cal ≤ 65535 := zext16_bounds _

theorem denProduct_bounds (fine : Int) (cal : CalFile) :
    0 ≤ denProduct fine cal ∧ denProduct fine cal < 4294967296 := by
  have := v1Step5_bounds fine cal
  have := coefP1_bounds cal
  unfold denProduct
  constructor <;> nlinarith

/-- The product is below 2^15 only for a P1 of 0, or of 1 with a factor below 2^15: from P1 = 2 on it is at least
2 * 24576. -/
theorem denProduct_lt_iff (fine : Int) (cal : CalFile) :
    denProduct fine cal < 32768 ↔ coefP1 cal = 0 ∨ (coefP1 cal = 1 ∧ (pressPoly fine cal).v1Step5 < 0) := by
  have h5 := v1Step5_bounds fine cal
  have hP := coefP1_bounds cal
  unfold denProduct
  obtain h0 | h1 | h2 : coefP1 cal = 0 ∨ coefP1 cal = 1 ∨ 2 ≤ coefP1 cal := by omega
  · simp [h0]
  · rw [h1]; omega
  · have : 49152 ≤ (32768 + (pressPoly fine cal).v1Step5) * coefP1 cal := by nlinarith
    omega

/-- Settles O36: the narrowed product is the exact one, or 2^32 below it and negative. -/
theorem denominatorZeroAndSign : Obligations.DenominatorZeroAndSign := by
  intro fine cal q
  have hprod := denProduct_bounds fine cal
  have h6 : q.v1Step6 = s32 (denProduct fine cal) / 32768 := v1Step6_eq fine cal
  have hneg : q.v1Step6 < 0 ↔ 2147483647 < denProduct fine cal := by
    rw [h6, s32]
    omega
  refine ⟨v1Step5_bounds fine cal, ?_, hneg, fun hlt => ?_⟩
  · rw [← denProduct_lt_iff, h6, s32]
    omega
  · exact pressPoly_ovf_of_denProduct ((leavesS32_eq_true_iff _).2 (.inr (hneg.1 hlt)))

/-! ### The division -/

/-- A nonzero signed divisor read unsigned is at least 1, and at least 2^31 when negative (R68). -/
theorem u32_of_ne_zero {v : Int} (lo : -2147483648 ≤ v) (hi : v ≤ 2147483647) (hv : v ≠ 0) :
    1 ≤ u32 v ∧ (v < 0 → 2147483648 ≤ u32 v) := by
  unfold u32
  omega

/-- A quotient by `u` is at most 1 when the dividend is below `2 * u`. -/
theorem ediv_le_one {p u : Int} (hu : 1 ≤ u) (h : p < 2 * u) : p / u ≤ 1 :=
  Int.lt_add_one_iff.1 (Int.ediv_lt_of_lt_mul (by omega) h)

/-- Settles O37: by the two branches of step 9. -/
theorem guardedDivision : Obligations.GuardedDivision := by
  intro p v1 hp0 hp1 lo hi hv
  obtain ⟨hu, hneg⟩ := u32_of_ne_zero lo hi hv
  have hq0 {a : Int} (ha : 0 ≤ a) : 0 ≤ a / u32 v1 ∧ a / u32 v1 ≤ a :=
    ⟨Int.ediv_nonneg ha (by omega), Int.ediv_le_self _ ha⟩
  by_cases hlt : p < 2147483648
  · have hdbl : u32 (shl p 1) = 2 * p := by
      rw [shl, pow_one, u32_of_inRange] <;> omega
    have h9 : pressStep9 p v1 = 2 * p / u32 v1 := by
      rw [pressStep9, if_pos hlt, hdbl, udiv]
    have := hq0 (a := 2 * p) (by omega)
    refine ⟨hu, by omega, by omega, fun _ => ⟨hdbl, h9, fun hv1 => ?_⟩, fun hge => absurd hlt (by omega)⟩
    rw [h9]
    have := hneg hv1
    exact ediv_le_one hu (by omega)
  · have h9 : pressStep9 p v1 = u32 (shl (p / u32 v1) 1) := by
      rw [pressStep9, if_neg hlt, udiv]
    have hb := u32_bounds (shl (p / u32 v1) 1)
    refine ⟨hu, by omega, by omega, fun h => absurd h hlt, fun _ => ⟨fun hv1 => ?_, fun hbig => ?_⟩⟩
    · have := hneg hv1
      exact ediv_le_one hu (by omega)
    · by_contra hne
      have : p / u32 v1 < 2147483648 := Int.ediv_lt_of_lt_mul (by omega) (by omega)
      omega

/-! ### The correction -/

/-- Settles O38: `t` is an unsigned 32-bit value shifted right by 13, whatever its square narrows to. -/
theorem correctionOperandsInRange : Obligations.CorrectionOperandsInRange := by
  intro p cal hp0 hp1
  have := u32_bounds (lsr p 3 * lsr p 3)
  simp only [pressCorr, lsr, Int.reducePow] at this ⊢
  omega

end Sys2Proof.Machine
end

section
/-! PROOFS. Pressure, results: COMPP's registers by the exact results of the checked steps, and as the source's listing
on 32-bit words (spec/42_compensation.md R63, R66; spec/00_scope.md R8). -/

namespace Sys2Proof.Machine

variable {s t : State}

/-! ### The exact results of the checked steps -/

/-- The exact results of the checked steps 1 to 6 of R63, each from the narrowed results before it. -/
def polyExacts (fine : Int) (cal : CalFile) : List Int :=
  let v1 := fine / 2 - 64000
  let q := s32 v1 / 4
  let v2a := s32 (q * q) / 2048 * coefP6 cal
  let v1p5 := s32 v1 * coefP5 cal
  let v2b := s32 v2a + s32 (s32 v1p5 * 2)
  let v2c := s32 v2b / 4 + s32 (coefP4 cal * 65536)
  let x := coefP3 cal * (s32 (q * q) / 8192)
  let y := coefP2 cal * s32 v1
  let xy := s32 x / 8 + s32 y / 2
  let m := 32768 + s32 xy / 262144
  [v1, q * q, v2a, v1p5, s32 v1p5 * 2, v2b, coefP4 cal * 65536, v2c, x, y, xy, m, s32 m * coefP1 cal]

/-- The exact results of the checked steps 10 to 12, from the quotient. -/
def corrExacts (p : Int) (cal : CalFile) : List Int :=
  let p9t := coefP9 cal * (p / 8 * (p / 8) % 4294967296 / 8192)
  let pp8 := p / 4 * coefP8 cal
  let sum := s32 p9t / 4096 + s32 pp8 / 8192
  [p9t, pp8, sum, s32 sum + coefP7 cal]

theorem pressPoly_ovf (fine : Int) (cal : CalFile) :
    (pressPoly fine cal).ovf = (polyExacts fine cal).any leavesS32 := by
  simp only [pressPoly, polyExacts, List.any_cons, List.any_nil, chk_val, chk_ovf, asr, shl, Int.reducePow,
    Bool.or_assoc, Bool.or_false]

theorem pressCorr_ovf (p : Int) (cal : CalFile) : (pressCorr p cal).ovf = (corrExacts p cal).any leavesS32 := by
  simp only [pressCorr, corrExacts, List.any_cons, List.any_nil, chk_val, chk_ovf, asr, lsr, u32, Int.reducePow,
    Bool.or_assoc, Bool.or_false]

/-- The overflow of CompP: that of steps 1 to 6, and past the guard that of steps 10 to 12 too. -/
theorem compP_ovf_iff (raw : Raw) (fine : Int) (cal : CalFile) :
    (compP raw fine cal).ovf = true ↔ (polyExacts fine cal).any leavesS32 = true ∨
      ((pressPoly fine cal).v1Step6 ≠ 0 ∧ (corrExacts (pressQuotient raw fine cal) cal).any leavesS32 = true) := by
  by_cases h : (pressPoly fine cal).v1Step6 = 0
  · simp [compP_of_zero h, h, pressPoly_ovf]
  · simp [compP_of_ne_zero h, h, pressPoly_ovf, pressCorr_ovf]

/-- The quotient with the narrowings of steps 8 and 9 written out (R68). -/
theorem pressQuotient_eq (raw : Raw) (fine : Int) (cal : CalFile) {p : Int}
    (hp : p = (1048576 - zext20 raw - (pressPoly fine cal).v2Step4 / 4096) * 3125 % 4294967296) :
    pressQuotient raw fine cal =
      if p < 2147483648 then p * 2 / ((pressPoly fine cal).v1Step6 % 4294967296)
      else p / ((pressPoly fine cal).v1Step6 % 4294967296) * 2 % 4294967296 := by
  rw [pressQuotient, pressStep8_eq, pressStep9_eq, hp]

/-- Settles O53: OVFP is the disjunction of the steps' indicators. -/
theorem pressureOverflowSteps : Obligations.PressureOverflowSteps := by
  intro s t he h raw P1 v1 q v2a v1P5 v2b v2c x y xy m mP1 d p n p9t pp8 sum leaves
  obtain rfl := eq_completed_of_exec (noCause_compp_iff.2 he) h
  have hd : (pressPoly (asS s.fine) s.cal).v1Step6 = d := by
    simp only [pressPoly, chk_val, asr, shl, Int.reducePow]
    rfl
  have hn : pressQuotient s.rawP (asS s.fine) s.cal = n := by
    rw [pressQuotient_eq s.rawP (asS s.fine) s.cal (p := p), hd]
    simp only [pressPoly, chk_val, asr, shl, Int.reducePow]
    rfl
  rw [completed, storePress_ovfp, compP_ovf_iff, any_leavesS32_iff, any_leavesS32_iff, hd, hn]
  rfl

/-! ### Without overflow -/

/-- Without overflow in steps 1 to 6 the polynomial is the listing's on exact integers. -/
theorem pressPoly_exact {fine : Int} {cal : CalFile} (h : (pressPoly fine cal).ovf = false) :
    let a := fine / 2 - 64000
    (pressPoly fine cal).v2Step4 =
        (a / 4 * (a / 4) / 2048 * coefP6 cal + a * coefP5 cal * 2) / 4 + coefP4 cal * 65536 ∧
      (pressPoly fine cal).v1Step6 =
        (32768 + (coefP3 cal * (a / 4 * (a / 4) / 8192) / 8 + coefP2 cal * a / 2) / 262144) * coefP1 cal / 32768 := by
  intro a
  have hex := s32_eq_of_any_eq_false ((pressPoly_ovf fine cal).symm.trans h)
  simp only [polyExacts, List.forall_mem_cons] at hex
  obtain ⟨hv1, hqq, hv2a, hv1p5, hdbl, hv2b, hp4, hv2c, hx, hy, hxy, hm, hmp1, -⟩ := hex
  simp only [pressPoly, chk_val, asr, shl, Int.reducePow]
  constructor
  · rw [hv2c, hv2b, hp4, hv2a, hdbl, hv1p5, hqq, hv1]
  · rw [hmp1, hm, hxy, hx, hy, hqq, hv1]

/-- Without overflow in steps 10 to 12 the correction is the listing's on exact integers, but for the square, which is
unsigned. -/
theorem pressCorr_exact {p : Int} {cal : CalFile} (h : (pressCorr p cal).ovf = false) :
    (pressCorr p cal).e =
      (coefP9 cal * (p / 8 * (p / 8) % 4294967296 / 8192) / 4096 + p / 4 * coefP8 cal / 8192 + coefP7 cal) / 16 := by
  have hex := s32_eq_of_any_eq_false ((pressCorr_ovf p cal).symm.trans h)
  simp only [corrExacts, List.forall_mem_cons] at hex
  obtain ⟨hp9t, hpp8, hsum, hsum7, -⟩ := hex
  simp only [pressCorr, chk_val, asr, lsr, u32, Int.reducePow]
  rw [hsum7, hsum, hp9t, hpp8]

/-- The denominator is a signed 32-bit value shifted right by 15. -/
theorem v1Step6_bounds (fine : Int) (cal : CalFile) :
    -65536 ≤ (pressPoly fine cal).v1Step6 ∧ (pressPoly fine cal).v1Step6 ≤ 65535 := by
  have := s32_bounds (denProduct fine cal)
  rw [v1Step6_eq]
  omega

/-- Settles O35: without overflow each narrowing of a checked step is the identity, and the denominator is not
negative. -/
theorem pressureExactWithoutOverflow : Obligations.PressureExactWithoutOverflow := by
  intro s t he h hno raw P1 a v2 w d p q e
  obtain rfl := eq_completed_of_exec (noCause_compp_iff.2 he) h
  simp only [completed, storePress_ovfp, storePress_pinv, storePress_pcomp] at hno ⊢
  obtain ⟨hsteps, hcorrsteps⟩ := not_or.1
    (mt (compP_ovf_iff s.rawP (asS s.fine) s.cal).2 (Bool.eq_false_iff.1 hno))
  have hpoly : (pressPoly (asS s.fine) s.cal).ovf = false := by
    rw [pressPoly_ovf]
    exact Bool.eq_false_iff.2 hsteps
  obtain ⟨hv2, hd⟩ : (pressPoly (asS s.fine) s.cal).v2Step4 = v2 ∧ (pressPoly (asS s.fine) s.cal).v1Step6 = d :=
    pressPoly_exact hpoly
  refine ⟨fun hz => ?_, fun hnz => ?_⟩
  · rw [compP_of_zero (hd.trans hz)]
    exact ⟨rfl, rfl⟩
  · have hne : (pressPoly (asS s.fine) s.cal).v1Step6 ≠ 0 := fun hz => hnz (hd.symm.trans hz)
    have hpos : 0 < d := by
      obtain ⟨-, -, -, hneg⟩ := denominatorZeroAndSign (asS s.fine) s.cal
      by_contra hle
      cases hpoly.symm.trans (hneg (by omega))
    have hq : pressQuotient s.rawP (asS s.fine) s.cal = q := by
      have hb := v1Step6_bounds (asS s.fine) s.cal
      rw [pressQuotient_eq s.rawP (asS s.fine) s.cal (p := p) (by rw [hv2]; rfl), hd,
        Int.emod_eq_of_lt (a := d) (by omega) (by omega)]
    have hcorr : (pressCorr q s.cal).ovf = false := by
      rw [pressCorr_ovf, ← hq]
      exact Bool.eq_false_iff.2 fun hk => hcorrsteps ⟨hne, hk⟩
    rw [compP_of_ne_zero hne, hq, pressCorr_exact hcorr]
    refine ⟨rfl, hpos, ?_⟩
    rw [toReg_toNat, u32_u32]
    rfl

/-! ### What CompP depends on -/

/-- CompP reads no entry but those from the fourth on. -/
theorem compP_congr {cal cal' : CalFile} (h : ∀ k : Fin 12, 3 ≤ k.val → cal[k] = cal'[k]) (raw : Raw) (fine : Int) :
    compP raw fine cal = compP raw fine cal' := by
  have hpoly : pressPoly fine cal = pressPoly fine cal' := by
    have h3 : cal[3] = cal'[3] := h 3 (by decide)
    have h4 : cal[4] = cal'[4] := h 4 (by decide)
    have h5 : cal[5] = cal'[5] := h 5 (by decide)
    have h6 : cal[6] = cal'[6] := h 6 (by decide)
    have h7 : cal[7] = cal'[7] := h 7 (by decide)
    have h8 : cal[8] = cal'[8] := h 8 (by decide)
    simp only [pressPoly, coefP1, coefP2, coefP3, coefP4, coefP5, coefP6, h3, h4, h5, h6, h7, h8]
  have hcorr (p : Int) : pressCorr p cal = pressCorr p cal' := by
    have h9 : cal[9] = cal'[9] := h 9 (by decide)
    have h10 : cal[10] = cal'[10] := h 10 (by decide)
    have h11 : cal[11] = cal'[11] := h 11 (by decide)
    simp only [pressCorr, coefP7, coefP8, coefP9, h9, h10, h11]
  simp only [compP, hpoly, hcorr]

/-- Settles O40: a COMPP that runs stores CompP of RAW_P, FINE and the calibration. -/
theorem pressureDependsOnlyOnInputs : Obligations.PressureDependsOnlyOnInputs := by
  intro s s' t t' he he' hraw hfine hcal h h'
  obtain rfl := eq_completed_of_exec (noCause_compp_iff.2 he) h
  obtain rfl := eq_completed_of_exec (noCause_compp_iff.2 he') h'
  simp only [completed, storePress_pcomp, storePress_pout, storePress_pinv, storePress_ovfp, hraw, hfine,
    compP_congr hcal, and_self]

/-! ### The listing -/

theorem toReg_asr_asS (x : Word) (k : Nat) : toReg (asr (asS x) k) = x.sshiftRight k := by
  rw [toReg_asr_of_inRange (asS_bounds x).1 (asS_bounds x).2, toReg_asS]

theorem toReg_lsr_of_inRange {p : Int} (hp : 0 ≤ p ∧ p ≤ 4294967295) (k : Nat) : toReg (lsr p k) = toReg p >>> k := by
  rw [← toReg_lsr, u32_of_inRange hp.1 hp.2]

/-- Steps 1 to 6 leave the patterns of the listing's v1 and v2 (R63, R66). -/
theorem toReg_pressPoly (fine : Word) (cal : CalFile) :
    toReg (pressPoly (asS fine) cal).v1Step6 = (listingPoly fine cal).1 ∧
      toReg (pressPoly (asS fine) cal).v2Step4 = (listingPoly fine cal).2 := by
  have h64000 : toReg 64000 = 64000 := rfl
  have h32768 : toReg 32768 = 32768 := rfl
  simp only [pressPoly, chk_val, listingPoly, wordZ, wordS, toReg_s32, toReg_add, toReg_sub, toReg_mul, toReg_shl,
    toReg_asr, toReg_asr_asS, coefP1, coefP2, coefP3, coefP4, coefP5, coefP6, toReg_zext16, toReg_sext16, h64000,
    h32768, and_self]

/-- A signed value in range is 0 exactly when its pattern is. -/
theorem toReg_eq_zero_iff {v : Int} (lo : -2147483648 ≤ v) (hi : v ≤ 2147483647) : toReg v = 0 ↔ v = 0 := by
  constructor
  · intro h
    rw [← s32_of_inRange lo hi, ← asS_toReg, h]
    rfl
  · rintro rfl
    rfl

/-- Step 8 on patterns: the narrowings between its operations are lost in the register. -/
theorem toReg_pressStep8 (raw : Raw) {v2 : Int} (lo : -2147483648 ≤ v2) (hi : v2 ≤ 2147483647) :
    toReg (pressStep8 raw v2) = (1048576 - raw.zeroExtend 32 - (toReg v2).sshiftRight 12) * 3125 := by
  have h1048576 : toReg 1048576 = 1048576 := rfl
  have h3125 : toReg 3125 = 3125 := rfl
  rw [pressStep8]
  simp only [toReg_u32, toReg_mul, toReg_sub, toReg_zext20, toReg_asr_of_inRange lo hi, h1048576, h3125]

/-- Step 9 on patterns: the guard compares, and the division divides, unsigned words (R67, R68). -/
theorem toReg_pressStep9 {p : Int} (hp : 0 ≤ p ∧ p ≤ 4294967295) (v : Int) :
    toReg (pressStep9 p v) =
      if toReg p < 0x80000000 then (toReg p <<< 1) / toReg v else (toReg p / toReg v) <<< 1 := by
  have hlt : toReg p < 0x80000000 ↔ p < 0x80000000 := by
    have hn : ((toReg p).toNat : Int) = p := (toReg_toNat p).trans (u32_of_inRange hp.1 hp.2)
    rw [BitVec.lt_def]
    change (toReg p).toNat < 0x80000000 ↔ p < 0x80000000
    omega
  simp only [pressStep9, hlt]
  split
  · rw [toReg_udiv (u32_bounds _) (u32_bounds _), toReg_u32, toReg_u32, toReg_shl]
  · rw [toReg_u32, toReg_shl, toReg_udiv hp (u32_bounds _), toReg_u32]

theorem pressStep8_bounds (raw : Raw) (v2 : Int) : 0 ≤ pressStep8 raw v2 ∧ pressStep8 raw v2 ≤ 4294967295 :=
  u32_bounds _

theorem v2Step4_bounds (fine : Int) (cal : CalFile) :
    -2147483648 ≤ (pressPoly fine cal).v2Step4 ∧ (pressPoly fine cal).v2Step4 ≤ 2147483647 :=
  s32_bounds _

/-- The quotient's pattern, from those of the polynomial's two results. -/
theorem toReg_pressQuotient (raw : Raw) (fine : Int) (cal : CalFile) :
    toReg (pressQuotient raw fine cal) =
      let p := (1048576 - raw.zeroExtend 32 - (toReg (pressPoly fine cal).v2Step4).sshiftRight 12) * 3125
      if p < 0x80000000 then (p <<< 1) / toReg (pressPoly fine cal).v1Step6
      else (p / toReg (pressPoly fine cal).v1Step6) <<< 1 := by
  obtain ⟨lo, hi⟩ := v2Step4_bounds fine cal
  rw [pressQuotient, toReg_pressStep9 (pressStep8_bounds ..), toReg_pressStep8 raw lo hi]

/-- Steps 10 to 12 leave the pattern of the listing's correction. -/
theorem toReg_pressCorr {p : Int} (hp : 0 ≤ p ∧ p ≤ 4294967295) (cal : CalFile) :
    toReg (pressCorr p cal).e =
      ((wordS cal[11] * (((toReg p >>> 3) * (toReg p >>> 3)) >>> 13)).sshiftRight 12 +
        ((toReg p >>> 2) * wordS cal[10]).sshiftRight 13 + wordS cal[9]).sshiftRight 4 := by
  simp only [pressCorr, chk_val, wordS, toReg_s32, toReg_add, toReg_mul, toReg_asr, toReg_lsr, toReg_lsr_of_inRange hp,
    coefP7, coefP8, coefP9, toReg_sext16]

/-- The quotient is an unsigned 32-bit value (R68). -/
theorem pressQuotient_bounds {raw : Raw} {fine : Int} {cal : CalFile} (h : (pressPoly fine cal).v1Step6 ≠ 0) :
    0 ≤ pressQuotient raw fine cal ∧ pressQuotient raw fine cal ≤ 4294967295 := by
  have h6 := v1Step6_bounds fine cal
  obtain ⟨-, lo, hi, -⟩ := guardedDivision (pressStep8 raw (pressPoly fine cal).v2Step4) (pressPoly fine cal).v1Step6
    (pressStep8_bounds ..).1 (pressStep8_bounds ..).2 (by omega) (by omega) h
  exact ⟨lo, hi⟩

/-- The listing returns its guard's 0 exactly where CompP does, and otherwise CompP's pressure (R63, R66). -/
theorem listingPress_eq (raw : Raw) (fine : Word) (cal : CalFile) :
    listingPress raw fine cal =
      if (compP raw (asS fine) cal).inv then none else some (toReg (compP raw (asS fine) cal).pcomp) := by
  obtain ⟨hv1, hv2⟩ := toReg_pressPoly fine cal
  have h6 := v1Step6_bounds (asS fine) cal
  have hz : (listingPoly fine cal).1 = 0 ↔ (pressPoly (asS fine) cal).v1Step6 = 0 := by
    rw [← hv1, toReg_eq_zero_iff] <;> omega
  by_cases h : (pressPoly (asS fine) cal).v1Step6 = 0
  · simp only [listingPress, hz.2 h, compP_of_zero h, if_true]
  · simp only [listingPress, if_neg (mt hz.1 h), compP_of_ne_zero h, Bool.false_eq_true, if_false, toReg_u32,
      toReg_add, toReg_pressCorr (pressQuotient_bounds h), toReg_pressQuotient, hv1, hv2]

/-- Settles O31: the two cases of CompP are the two of the listing, and POUT's scaling is a product of words. -/
theorem pressureMatchesListing : Obligations.PressureMatchesListing := by
  intro s he
  refine ⟨_, exec_of_no_cause (noCause_compp_iff.2 he), ?_⟩
  have hscale (v : Int) : toReg (u32 (v * Config.poutScale)) = toReg v * 1000 := by
    rw [toReg_u32, toReg_mul]
    rfl
  simp only [completed, storePress_pcomp, storePress_pout, storePress_pinv, listingPress_eq, compP_pout, hscale]
  cases hi : (compP s.rawP (asS s.fine) s.cal).inv with
  | true =>
    rw [compP_pcomp_of_inv hi]
    exact ⟨fun _ => ⟨rfl, rfl, rfl⟩, nofun⟩
  | false =>
    refine ⟨nofun, fun p hp => ?_⟩
    obtain rfl := Option.some.inj hp
    exact ⟨rfl, rfl, rfl⟩

end Sys2Proof.Machine
end

section
/-! PROOFS. Programs: the calibration load, the pseudo-instructions, and the order of raw loads and compensations
(spec/30_encoding.md R56; spec/70_reset_and_hazards.md R89, R91). -/

namespace Sys2Proof.Machine

variable {s t : State}

/-! ### Staging and committing a set -/

/-- The WRCAL of each of some entries, with the entries' bytes. -/
def wrcals (lo hi : Fin 12 → Byte) (ks : List (Fin 12)) : List Instr := ks.map fun k => .wrcal k.val (lo k) (hi k)

/-- A list of commands followed by more of them. -/
theorem execAll_append (is js : List Instr) (s : State) :
    execAll (is ++ js) s = andThen (execAll is s) (execAll js) := by
  induction is generalizing s with
  | nil => rfl
  | cons i is ih =>
    obtain ⟨u, hu⟩ := exec_total i s
    simp only [List.cons_append, execAll_cons, hu, andThen_next, ih]

/-- Entry `k` of the staging file is written, with the file's value for it. -/
def HasStaged (file : Fin 12 → Half) (s : State) (k : Fin 12) : Prop :=
  s.smask.getLsbD k = true ∧ s.stage[k] = file k

/-- Staging one entry of a file adds it to those staged. -/
theorem hasStaged_stageEntry_iff (file : Fin 12 → Half) (s : State) (j k : Fin 12) :
    HasStaged file (stageEntry j (file j) s) k ↔ k = j ∨ HasStaged file s k := by
  rw [HasStaged, stageEntry_smask, maskBit_getLsbD s.smask j.isLt, stageEntry_stage]
  by_cases hkj : k = j
  · subst hkj
    simp
  · have hne : j.val ≠ k.val := fun h => hkj (Fin.ext h.symm)
    simp [HasStaged, hkj, hne, Fin.val_inj]

/-- Before COMMIT, WRCALs of some entries stage these beside those already staged, by induction on the entries. -/
theorem execAll_wrcals (lo hi : Fin 12 → Byte) (ks : List (Fin 12)) (hc : s.calv = false) :
    ∃ t, execAll (wrcals lo hi ks) s = .next t ∧ t.calv = false ∧
      ∀ k, k ∈ ks ∨ HasStaged (fun k => calValue (lo k) (hi k)) s k →
        HasStaged (fun k => calValue (lo k) (hi k)) t k := by
  induction ks generalizing s with
  | nil => exact ⟨s, rfl, hc, fun k hk => by simpa using hk⟩
  | cons j js ih =>
    obtain ⟨t, ht, htc, hstaged⟩ := ih (s := stageEntry j (calValue (lo j) (hi j)) s) (by simpa using hc)
    have hj : exec (.wrcal j (lo j) (hi j)) s = .next (stageEntry j (calValue (lo j) (hi j)) s) :=
      execWrcal_enabled j.isLt hc
    have hrun : execAll (wrcals lo hi (j :: js)) s = .next t := by
      rw [wrcals, List.map_cons, execAll_cons, hj, andThen_next, ← wrcals, ht]
    refine ⟨t, hrun, htc, fun k hk => hstaged k ?_⟩
    rw [hasStaged_stageEntry_iff (fun k => calValue (lo k) (hi k))]
    obtain hk | hk := hk
    · obtain rfl | hk := List.mem_cons.1 hk
      · exact .inr (.inl rfl)
      · exact .inl hk
    · exact .inr (.inr hk)

/-- A mask with all twelve bits set is full. -/
theorem smask_eq_full {m : BitVec 12} (h : ∀ k : Fin 12, m.getLsbD k = true) : m = 0xFFF#12 := by
  apply BitVec.eq_of_getLsbD_eq
  intro k hk
  rw [h ⟨k, hk⟩, show (0xFFF#12) = BitVec.allOnes 12 from rfl, BitVec.getLsbD_allOnes, decide_eq_true hk]

/-- The twelve WRCALs and a COMMIT make the file of their bytes the active set (R58, R59). -/
theorem execAll_load_set (lo hi : Fin 12 → Byte) (hc : s.calv = false) :
    ∃ t, execAll (wrcals lo hi (List.finRange 12) ++ [.commit]) s = .next t ∧ t.calv = true ∧
      ∀ k : Fin 12, t.cal[k] = calValue (lo k) (hi k) := by
  obtain ⟨u, hu, huc, hstaged⟩ := execAll_wrcals lo hi (List.finRange 12) hc
  have hall (k : Fin 12) : HasStaged (fun k => calValue (lo k) (hi k)) u k := hstaged k (.inl (List.mem_finRange k))
  have hcommit : exec .commit u = .next (activateStage u) :=
    execCommit_enabled huc (smask_eq_full fun k => (hall k).1)
  refine ⟨activateStage u, ?_, rfl, fun k => (hall k).2⟩
  rw [execAll_append, hu, andThen_next, execAll_cons, hcommit, andThen_next, execAll_nil]

/-- Settles O48: the calibration load is the load of the sensor's bytes, and the window reads an active entry. -/
theorem calibrationBytesRoundTrip : Obligations.CalibrationBytesRoundTrip := by
  intro dev s hc
  obtain ⟨t, ht, htc, hcal⟩ := execAll_load_set (fun k => dev (calLoAddr k)) (fun k => dev (calHiAddr k)) hc
  refine ⟨t, ht, htc, fun k => ?_⟩
  have hw : windowReg (BitVec.ofNat 8 (0x20 + 4 * k.val)) = some (.cal k) := windowReg_regOffset (.cal k)
  rw [hostRead_of_mapped hw, windowContent, hcal]
  congr 1
  apply BitVec.eq_of_toNat_eq
  have hv := calValue_toNat (dev (calLoAddr k)) (dev (calHiAddr k))
  have hlt := (calValue (dev (calLoAddr k)) (dev (calHiAddr k))).isLt
  rw [BitVec.toNat_setWidth_of_le (by decide), BitVec.toNat_ofNat, ← calLoAddr, ← calHiAddr, ← hv,
    Nat.mod_eq_of_lt (by omega)]

/-! ### The pseudo-instructions -/

/-- A coefficient's two bytes put together are its pattern again. -/
theorem calValue_bytes (v : Half) : calValue (v.extractLsb' 0 8) (v.extractLsb' 8 8) = v := by
  have := v.isLt
  apply BitVec.eq_of_toNat_eq
  rw [calValue_toNat, BitVec.extractLsb'_toNat, BitVec.extractLsb'_toNat, Nat.shiftRight_eq_div_pow]
  omega

theorem coefPattern_toNat (v : Int) : ((coefPattern v).toNat : Int) = v % 65536 := by
  rw [coefPattern, BitVec.toNat_ofInt, u32]
  omega

/-- Settles O49: CALSET's commands load the coefficients' patterns. -/
theorem calsetActivatesCoefficients : Obligations.CalsetActivatesCoefficients := by
  intro coefs s hc
  obtain ⟨t, ht, htc, hcal⟩ := execAll_load_set (fun k => (coefPattern coefs[k]).extractLsb' 0 8)
    (fun k => (coefPattern coefs[k]).extractLsb' 8 8) hc
  refine ⟨t, ht, htc, fun k => ?_⟩
  rw [hcal, calValue_bytes, coefPattern_toNat]

/-- The three bytes of a code, its last nibble padded, are the code again (R42, R56). -/
theorem rawCode_bytes (code : Raw) :
    rawCode (code.extractLsb' 12 8) (code.extractLsb' 4 8) (codeXlsb code) = code := by
  have := code.isLt
  apply BitVec.eq_of_toNat_eq
  rw [rawCode_toNat, codeXlsb, append_toNat]
  simp only [BitVec.extractLsb'_toNat, Nat.shiftRight_eq_div_pow, BitVec.toNat_ofNat]
  omega

/-- Settles O50: each expands to one raw load, of the code's bytes. -/
theorem setrawLoadsItsCode : Obligations.SetrawLoadsItsCode := by
  intro code s
  simp only [Pseudo.expand, execAll_cons, exec_ldrawt, exec_ldrawp, andThen_next, execAll_nil, rawCode_bytes]
  exact ⟨rfl, rfl⟩

/-- A COMPT enables COMPP wherever the pressure code is loaded. -/
theorem pressEnabled_completed_compt (hc : s.calv = true) (hp : s.rawpv = true) :
    PressEnabled (completed .compt s) := by
  rw [completed, PressEnabled, storeTemp_calv, storeTemp_rawpv, storeTemp_finev]
  exact ⟨hc, hp, rfl⟩

/-- PCOMP after a COMPP that runs is CompP's pressure: it fits the register. -/
theorem completed_compp_pcomp_toNat (s : State) :
    ((completed .compp s).pcomp.toNat : Int) = (compP s.rawP (asS s.fine) s.cal).pcomp := by
  obtain ⟨lo, hi⟩ := compP_pcomp_bounds s.rawP (asS s.fine) s.cal
  rw [completed, storePress_pcomp, toReg_toNat, u32_of_inRange lo hi]

/-- What COMPP keeps and sets beside its results (R65). -/
theorem completed_compp_frame (s : State) : (completed .compp s).errcode = s.errcode ∧
    (completed .compp s).finev = s.finev ∧ (completed .compp s).presv = true ∧
      (completed .compp s).fine = s.fine := by
  simp [completed]

/-- What COMPT keeps of COMPP's inputs and of ERRCODE (R64). -/
theorem completed_compt_frame (s : State) : (completed .compt s).errcode = s.errcode ∧
    (completed .compt s).finev = true ∧ (completed .compt s).rawP = s.rawP ∧ (completed .compt s).cal = s.cal := by
  simp [completed]

/-- Settles O51: COMPT enables COMPP, which reads the FINE it leaves. -/
theorem measureUsesItsOwnTemperature : Obligations.MeasureUsesItsOwnTemperature := by
  intro s hc hr hp
  have hcompt : exec .compt s = .next (completed .compt s) := exec_of_no_cause (noCause_compt_iff.2 ⟨hc, hr⟩)
  have hcompp := exec_of_no_cause (noCause_compp_iff.2 (pressEnabled_completed_compt hc hp))
  have hfine := asS_completed_compt_fine s
  have hpcomp := completed_compp_pcomp_toNat (completed .compt s)
  obtain ⟨herr, hfinev, hrawP, hcal⟩ := completed_compt_frame s
  generalize completed .compt s = u at *
  obtain ⟨herr', hfinev', hpresv, hfine'⟩ := completed_compp_frame u
  refine ⟨completed .compp u, ?_, herr'.trans herr, hfinev'.trans hfinev, hpresv, ?_, ?_⟩
  · simp only [Pseudo.expand, execAll_cons, hcompt, hcompp, andThen_next, execAll_nil]
  · rw [hfine', ← hfine, asS]
  · rw [hpcomp, hrawP, hcal, hfine]

/-! ### A reloaded raw code -/

/-- COMPP neither reads nor writes RAW_T (R65, R91). -/
theorem exec_compp_loadRawT (h : exec .compp s = .next t) (code : Raw) :
    exec .compp (loadRawT code s) = .next (loadRawT code t) := by
  obtain ⟨hn, rfl⟩ | ⟨e, he, rfl⟩ := exec_eq_completed_or_reject h
  · exact exec_of_no_cause (s := loadRawT code s) hn
  · exact exec_of_cause (s := loadRawT code s) he

/-- Settles O52: a raw load completes in every state, and COMPP after it does as before it. -/
theorem pressureIgnoresReloadedRawT : Obligations.PressureIgnoresReloadedRawT := by
  refine fun msb lsb xlsb s => ⟨fun t h => ?_, ?_⟩
  · obtain rfl := Host.Outcome.next.inj h
    exact ⟨rfl, rfl⟩
  · obtain ⟨t, ht⟩ := exec_total .compp s
    rw [exec_ldrawt, andThen_next, exec_compp_loadRawT ht, ht, andThen_next, exec_ldrawt]

end Sys2Proof.Machine
end
